-- ==== Sys2Proof/Word.lean ====
section
/-! DEFINITION. The words of the NASAM core: every quantity of the block is an unsigned word of a fixed width
(spec 00_scope.md R3, section 3). Bit 0 is the least significant bit. -/

namespace Sys2Proof

/-- A 64-bit word: `seed`, `streamIndex`, `x`, `inc`, `ctr`, `distance`, every `mix` operand and result, and the data
buses of the ports (00_scope.md section 3, 30_encoding.md R30). -/
abbrev Word := BitVec 64

/-- A 32-bit word: the result of `expand16`, the operand of `expand32` (41_expander.md R50, R51). -/
abbrev Half := BitVec 32

/-- A 16-bit word: the operand of `expand16` (41_expander.md R50). -/
abbrev Quarter := BitVec 16

/-- A command word (30_encoding.md R31). -/
abbrev CmdWord := BitVec 32

/-- A slot index, `g` or `d` of a command word: an unsigned 8-bit number (30_encoding.md R36). -/
abbrev SlotIx := BitVec 8

end Sys2Proof
end

