-- ==== Sys2Proof/Machine/Bits.lean ====
section
/-! DEFINITION. The arithmetic and bit primitives of 00_scope.md section 4. Nothing in the block is signed (R3), nothing
overflows with an error (R4), every shift is logical (R6). -/

namespace Sys2Proof.Machine

/-- `add64` (00_scope.md R4). -/
def add64 (a b : Word) : Word := a + b

/-- `mul64`: the low 64 bits of the product (00_scope.md R4). -/
def mul64 (a b : Word) : Word := a * b

/-- `shr_N`: the logical right shift (00_scope.md R6). -/
def shr {n : Nat} (v : BitVec n) (k : Nat) : BitVec n := v >>> k

/-- `shl_N`: the left shift within `N` bits, bits shifted past the top discarded (00_scope.md R6). -/
def shl {n : Nat} (v : BitVec n) (k : Nat) : BitVec n := v <<< k

/-- `rotr64`: the rotation right, for `0 < r < 64` (00_scope.md R5). -/
def rotr64 (v : Word) (r : Nat) : Word := shr v r ||| shl v (64 - r)

/-- `zext_64` (00_scope.md R6). -/
def zext64 {n : Nat} (v : BitVec n) : Word := v.setWidth 64

/-- `v[63:32]` (00_scope.md R3). -/
def high32 (v : Word) : Half := v.extractLsb' 32 32

/-- `v[31:0]` (00_scope.md R3). -/
def low32 (v : Word) : Half := v.extractLsb' 0 32

/-- `v[15:0]` of a 64-bit word (00_scope.md R3). -/
def low16 (v : Word) : Quarter := v.extractLsb' 0 16

end Sys2Proof.Machine
end

