-- ==== Sys2Proof/Config.lean ====
section
/-! DEFINITION. What is fixed for one instance of the block and left OPEN by the spec: the number of slots `NGEN`
(92_eei_decisions.md D2, 93_implementation_defined.md U1). The spec leaves no RESULT of any command open, so there is no
free value. The two parameters' values stand in Machine/Params.lean. -/

namespace Sys2Proof

/-- The least `NGEN` (00_scope.md section 3). -/
def Config.ngenMin : Nat := 1

/-- The greatest `NGEN`: slot indices have 8 bits (00_scope.md section 3, 92_eei_decisions.md D2). -/
def Config.ngenMax : Nat := 256

/-- `1 <= NGEN <= 256`: the values of the parameter that the spec admits (10_state.md R11). -/
abbrev Config.LegalNgen (n : Nat) : Prop := Config.ngenMin ≤ n ∧ n ≤ Config.ngenMax

end Sys2Proof
end

