-- ==== Sys2Proof/Machine/Params.lean ====
section
/-! DEFINITION. The values this model takes for the two parameters the spec names (93_implementation_defined.md U1, U6).
No meaning of a command reads `Params.ngen`: a state's `NGEN` is the length of its slot file, so statements about every
state hold for every `NGEN`. -/

namespace Sys2Proof.Machine

/-- `NGEN` in `State.reset`. DESIGN CHOICE (log 1): the spec leaves `1 <= NGEN <= 256` OPEN; 2 is what the programs of
95_test_vectors.md are written for. unsafe: a claim about `State.reset` alone is about an instance with two slots. -/
def Params.ngen : Nat := 2

/-- The width of the shift in step 3 of construct: `true` is the spec's rule, a 64-bit shift (42_generator.md R58,
92_eei_decisions.md D12), `false` the 32-bit alternative of 93_implementation_defined.md U6. The value follows the spec
(log 7). unsafe: under the other reading most generators differ. -/
def Params.shiftWide : Bool := true

end Sys2Proof.Machine
end

