-- ==== Sys2Proof/Machine/State.lean ====
section
/-! DEFINITION. The state of the NASAM core as plain data (10_state.md), the ports' contents (30_encoding.md R30), the
reasons a step can stop (none: see `Fault` and `Refusal`), and the state after reset. The block has no memory, no program
counter, no flags and no modes (10_state.md R18, 20_memory.md R20, 60_exceptions.md R82), so State has none. -/

namespace Sys2Proof.Machine

/-- A generator value: the triple `(x, inc, ctr)` (10_state.md R10). There is no fourth field. -/
structure Gen where
  /-- `x`, the per-instance `mix` tweak operand (R12). -/
  x : Word
  /-- `increment` (R13). -/
  inc : Word
  /-- `counter` (R14): data, neither a program counter nor a timer. -/
  ctr : Word
  deriving DecidableEq, Repr

/-- A slot `G[i]`: a generator context and its `valid` bit (10_state.md R11, R16). -/
structure Slot where
  /-- `G[i].x`, `G[i].inc`, `G[i].ctr`. -/
  gen : Gen
  /-- `G[i].valid`: the slot holds a constructed generator (R16). -/
  valid : Bool
  deriving DecidableEq, Repr

/-- The status of a response (30_encoding.md R39). Every status but `ok` is a refusal BY THE BLOCK (60_exceptions.md R76):
a response, after which the machine goes on. -/
inductive Status where
  /-- 0: the command was executed as its rule says. -/
  | ok
  /-- 1: the command word is no command. -/
  | illegal
  /-- 2: a slot index the command uses is `>= NGEN`. -/
  | badSlot
  /-- 3: the source slot is not valid and the command needs a generator. -/
  | uninit
  deriving DecidableEq, Repr

/-- A response: `rsp_status` and `rsp_data` (30_encoding.md R30, R39). -/
structure Response where
  status : Status
  data : Word
  deriving DecidableEq, Repr

/-- What the host can do to the block (70_reset_and_hazards.md R94), as the block sees it between two steps. -/
inductive HostEvent where
  /-- A command `(cmd_word, cmd_a, cmd_b)` is presented and accepted (30_encoding.md R30). -/
  | command (word : CmdWord) (a b : Word)
  /-- The host raises `rsp_ready` and takes the oldest response, if there is one (30_encoding.md R30). -/
  | takeResponse
  /-- `rst` is asserted, for however long, and released (70_reset_and_hazards.md R87). -/
  | reset
  deriving DecidableEq, Repr

/-- The state of one block, and of what lies on its ports. -/
structure State where
  /-- The slot file `G[0] .. G[NGEN-1]`; its length is `NGEN` (10_state.md R11). -/
  slots : List Slot
  /-- The bus `cmd_a` as presented with the command being executed (30_encoding.md R30, R35). The MODEL'S own field
  (log 3): nothing reads it before the next command sets it. -/
  cmdA : Word
  /-- The bus `cmd_b`, likewise (log 3). -/
  cmdB : Word
  /-- What the host does next, oldest first: the commands it presents, the responses it takes, the resets it asserts. The
  MODEL'S own field (log 4): an input, which no command reads or changes. -/
  host : List HostEvent
  /-- The responses the host has not taken yet, oldest first (30_encoding.md R30, 70_reset_and_hazards.md R87, R90;
  log 5). -/
  pending : List Response
  /-- The responses the host has taken, oldest first: what is observed of a run (70_reset_and_hazards.md R94). The MODEL'S
  own field (log 5): an output, which nothing reads. -/
  taken : List Response
  deriving DecidableEq, Repr

/-- The reasons the machine stops with a fault: NONE. The core has no error condition (60_exceptions.md R75), there is no
trap (R78), and "it has no halt, no exit and no fault state" (70_reset_and_hazards.md R94). The type is empty, so no
meaning can raise a fault. -/
inductive Fault where
  deriving DecidableEq, Repr

/-- The reasons the MODEL refuses to say what happens. -/
inductive Refusal where
  /-- Raised by an arm of `exec` whose command has no meaning yet: none, every command of the opcode map has its meaning.
  safe: a step that is refused proves nothing. -/
  | notModelled (mnemonic : String)
  deriving DecidableEq, Repr

/-- What a step answers. -/
abbrev Result := Host.Outcome State Fault Refusal

/-- A slot after reset: not valid (10_state.md R19). `x`, `inc` and `ctr` are unspecified and unreadable there; DESIGN
CHOICE (log 2): they hold 0. unsafe: a claim that reads them where `valid` is false would lean on the zeros; no response
depends on them. -/
def Slot.reset : Slot := { gen := { x := 0#64, inc := 0#64, ctr := 0#64 }, valid := false }

/-- The state after reset of an instance with `n` slots, the host having done nothing yet: every slot not valid, no
response pending (10_state.md R19, 70_reset_and_hazards.md R87). -/
def State.resetWith (n : Nat) : State :=
  { slots := List.replicate n Slot.reset, cmdA := 0#64, cmdB := 0#64, host := [], pending := [], taken := [] }

/-- The state after reset of the instance this model takes, with `Params.ngen` slots (log 1). -/
def State.reset : State := State.resetWith Params.ngen

end Sys2Proof.Machine
end

