-- ==== Sys2Proof/Machine/Operands.lean ====
section
/-! DEFINITION. Operand assembly (30_encoding.md R35): whole 64-bit words from the buses, no sign extension, scaling or
shifting; a narrow operand is the low bits of `cmd_a`, its upper bits ignored. A bus no operand names is ignored. -/

namespace Sys2Proof.Machine

/-- CONSTRUCT: `seed = cmd_a`. -/
def State.seed (s : State) : Word := s.cmdA

/-- CONSTRUCT: `streamIndex = cmd_b`. -/
def State.streamIndex (s : State) : Word := s.cmdB

/-- SKIP: `distance = cmd_a`, taken modulo 2^64. -/
def State.distance (s : State) : Word := s.cmdA

/-- MIX: `v = cmd_a`. -/
def State.mixV (s : State) : Word := s.cmdA

/-- MIX: `tweak = cmd_b`. -/
def State.mixTweak (s : State) : Word := s.cmdB

/-- EXPAND16: `w = cmd_a[15:0]`. -/
def State.operand16 (s : State) : Quarter := low16 s.cmdA

/-- EXPAND32: `w = cmd_a[31:0]`. -/
def State.operand32 (s : State) : Half := low32 s.cmdA

end Sys2Proof.Machine
end

