-- ==== Sys2Proof/Machine/Ops.lean ====
section
/-! DEFINITION. The named operations over the slot file and the ports that the commands share. The block has no memory
(20_memory.md R20) and no trap entry or return (60_exceptions.md R78): in their place stand the access to a slot and the
shared REFUSAL, which writes no state and answers with its status and data 0. -/

namespace Sys2Proof.Machine

/-- `NGEN` of this instance: the number of slots (10_state.md R11). -/
def State.ngen (s : State) : Nat := s.slots.length

/-- A slot index is in range when it is less than `NGEN` (30_encoding.md R36). -/
def State.inRange (s : State) (ix : SlotIx) : Bool := decide (ix.toNat < s.ngen)

/-- `G[ix]`, if `ix` is in range. -/
def State.slot? (s : State) (ix : SlotIx) : Option Slot := s.slots[ix.toNat]?

/-- `G[ix].valid` of a slot in range; an index out of range has no slot to be valid. -/
def State.isValid (s : State) (ix : SlotIx) : Bool := (s.slot? ix).elim false Slot.valid

/-- `G[ix].ctr <- ctr`, the slot's other fields kept (00_scope.md, table of primitives). -/
def State.setCtr (s : State) (ix : SlotIx) (ctr : Word) : State :=
  { s with slots := s.slots.modify ix.toNat fun sl => { sl with gen := { sl.gen with ctr := ctr } } }

/-- `G[ix].x <- x; G[ix].inc <- inc; G[ix].ctr <- ctr; G[ix].valid <- 1`: a generator begins in slot `ix`
(10_state.md R16, R17), whatever was there. -/
def State.install (s : State) (ix : SlotIx) (p : Gen) : State :=
  { s with slots := s.slots.set ix.toNat { gen := p, valid := true } }

/-- `respond(status, data)`: the command's one response, behind those still pending (30_encoding.md R30, R39;
20_memory.md R25). -/
def State.respond (s : State) (status : Status) (data : Word) : State :=
  { s with pending := s.pending ++ [{ status := status, data := data }] }

/-- A command completes with status OK and `data`, or 0 where it has no result (30_encoding.md R39). -/
def State.complete (s : State) (data : Word) : Result := .next (s.respond .ok data)

/-- `refuse <Status>`: the response `(status, 0)` and no state change (60_exceptions.md R78). -/
def State.refuse (s : State) (status : Status) : Result := .next (s.respond status 0#64)

/-- The checks of a command that reads a generator from slot `g`, in the order of 60_exceptions.md R77: range (BADSLOT),
then validity (UNINIT); then the command goes on with the generator found. -/
def State.withSource (s : State) (g : SlotIx) (k : Gen → Result) : Result :=
  match s.slot? g with
  | none => s.refuse .badSlot
  | some sl => if sl.valid then k sl.gen else s.refuse .uninit

end Sys2Proof.Machine
end

