-- ==== Sys2Proof/Machine/Expander.lean ====
section
/-! DEFINITION. The Expander and the commands EXPAND16 and EXPAND32 (41_expander.md). -/

namespace Sys2Proof.Machine

/-- `expand16(w)` (41_expander.md R50). The left shift is within 32 bits (92_eei_decisions.md D13). -/
def expand16 (w : Quarter) : Half :=
  let a1 := ~~~w
  let a2 := a1 ^^^ shr a1 12
  let f0 : Half := a2 ++ w
  let f1 := f0 ^^^ shr f0 12
  let f2 := f1 ^^^ shl f1 13
  f2 ^^^ shr f2 14

/-- `expand32(w)`: the high half of the operand makes the high half of the result (41_expander.md R51). -/
def expand32 (w : Half) : Word :=
  let hi := expand16 (w.extractLsb' 16 16)
  let lo := expand16 (w.extractLsb' 0 16)
  hi ++ lo

/-- EXPAND16 (41_expander.md R52). -/
def execExpand16 (s : State) : Result := s.complete (zext64 (expand16 s.operand16))

/-- EXPAND32 (41_expander.md R53). -/
def execExpand32 (s : State) : Result := s.complete (expand32 s.operand32)

end Sys2Proof.Machine
end

