-- ==== Sys2Proof/Machine/Flags.lean ====
section
/-! DEFINITION. The status codes and the `valid` bit as the ports show them. The block has no condition codes and no flags
written as a side effect of an operation (10_state.md R18): the rule of every command says "Flags written: none" or names
`valid` alone, which CONSTRUCT and SPLIT set and only reset clears (R16). So there is no flag computation but these. -/

namespace Sys2Proof.Machine

/-- `rsp_status` as a number (30_encoding.md R39). -/
def statusCode : Status → BitVec 2
  | .ok => 0#2
  | .illegal => 1#2
  | .badSlot => 2#2
  | .uninit => 3#2

/-- `zext_64(G[g].valid)` (42_generator.md R66). -/
def validWord (valid : Bool) : Word := if valid then 1#64 else 0#64

end Sys2Proof.Machine
end

