-- ==== Sys2Proof/Machine/Mixer.lean ====
section
/-! DEFINITION. The Mixer and the command MIX (40_mixer.md). -/

namespace Sys2Proof.Machine

/-- The first multiplier (40_mixer.md R45). Taken as printed (log 8). -/
def mixK1 : Word := 0x9E6C63D0676A9A99#64

/-- The second multiplier (40_mixer.md R45). Taken as printed (log 8). -/
def mixK2 : Word := 0x9E6D62D06F6A9A9B#64

/-- Step 2 of `mix`: both rotations of the value before the step (40_mixer.md R45, 00_scope.md R7; log 9). -/
def mixRotate (v : Word) : Word := v ^^^ rotr64 v 25 ^^^ rotr64 v 47

/-- Steps 4 and 6 of `mix`: both shifts of the value before the step (40_mixer.md R45). -/
def mixShift (v : Word) : Word := v ^^^ shr v 23 ^^^ shr v 51

/-- `mix(v, tweak)` (40_mixer.md R45). -/
def mix (v tweak : Word) : Word :=
  let v1 := v ^^^ tweak
  let v2 := mixRotate v1
  let v3 := mul64 v2 mixK1
  let v4 := mixShift v3
  let v5 := mul64 v4 mixK2
  mixShift v5

/-- MIX (40_mixer.md R46). -/
def execMix (s : State) : Result := s.complete (mix s.mixV s.mixTweak)

end Sys2Proof.Machine
end

