-- ==== Sys2Proof/Syntax.lean ====
section
/-! DEFINITION. The commands of the NASAM core, one constructor per row of the opcode map (30_encoding.md R33, R43).
The two 64-bit operands of a command are not part of its command word: they arrive beside it on the buses `cmd_a` and
`cmd_b` (30_encoding.md R30, R35), which `State` holds. -/

namespace Sys2Proof

/-- The field of a slot that RDSTATE reads, selected by `sel` (30_encoding.md R37). All four values of `sel` are
defined. -/
inductive SlotField where
  | x
  | inc
  | ctr
  | valid
  deriving DecidableEq, Repr

/-- The eight commands and no others (30_encoding.md R33). -/
inductive Instr where
  /-- CONSTRUCT Gd, seed, streamIndex (42_generator.md R59). -/
  | construct (d : SlotIx)
  /-- NEXT Gg (42_generator.md R61). -/
  | next (g : SlotIx)
  /-- SPLIT Gd, Gg: `d` receives the child, `g` is the parent (42_generator.md R63). -/
  | split (d g : SlotIx)
  /-- SKIP Gg, distance (42_generator.md R65). -/
  | skip (g : SlotIx)
  /-- RDSTATE Gg.field (42_generator.md R66). -/
  | rdstate (sel : SlotField) (g : SlotIx)
  /-- MIX v, tweak (40_mixer.md R46). -/
  | mix
  /-- EXPAND16 w (41_expander.md R52). -/
  | expand16
  /-- EXPAND32 w (41_expander.md R53). -/
  | expand32
  deriving DecidableEq, Repr

end Sys2Proof
end

