-- ==== Sys2Proof/Machine/Generator.lean ====
section
/-! DEFINITION. The Generator: the four operations on a generator value, and the commands CONSTRUCT, NEXT, SPLIT, SKIP and
RDSTATE on the slot file (42_generator.md). -/

namespace Sys2Proof.Machine

/-! ### The operations on a generator value -/

/-- `INC_BASE`, the fixed odd base of every increment (42_generator.md R58). Taken as printed (log 8). -/
def incBase : Word := 0x5BE0CD19137E2179#64

/-- `TWEAK_MASK` (42_generator.md R58). -/
def tweakMask : Word := 0x00000000FFFFFFFF#64

/-- `TWEAK_SHIFT` (42_generator.md R58). -/
def tweakShift : Nat := 2

/-- `mix(streamIndex, 1)`: the stream tweak (42_generator.md R58 step 2). -/
def streamTweak (streamIndex : Word) : Word := mix streamIndex 1#64

/-- The masked and shifted stream tweak that is laid onto `INC_BASE` (42_generator.md R58 step 3). `wide` is the spec's
64-bit shift; otherwise the 32-bit alternative of 93_implementation_defined.md U6, which loses `tweak[31:30]` (log 7). -/
def tweakBits (wide : Bool) (tweak : Word) : Word :=
  if wide then shl (tweak &&& tweakMask) tweakShift else zext64 (shl (low32 tweak) tweakShift)

/-- The increment of a stream tweak (42_generator.md R58 step 3). -/
def incOfTweak (wide : Bool) (tweak : Word) : Word := incBase ^^^ tweakBits wide tweak

/-- `x` of an increment: the Expander on its high half (42_generator.md R58 step 4). -/
def xOfInc (inc : Word) : Word := expand32 (high32 inc)

/-- `construct(seed, streamIndex)` (42_generator.md R58). -/
def construct (seed streamIndex : Word) : Gen :=
  let counter0 := mix seed 0#64
  let tweak := streamTweak streamIndex
  let inc := incOfTweak Params.shiftWide tweak
  { x := xOfInc inc, inc := inc, ctr := counter0 }

/-- The output of `next`: the counter BEFORE the advance is mixed (42_generator.md R60). -/
def nextOut (p : Gen) : Word := mix p.ctr p.x

/-- The generator after `next` (42_generator.md R60). -/
def nextGen (p : Gen) : Gen := { p with ctr := add64 p.ctr p.inc }

/-- `split`: the child, from two outputs of the parent, the first its seed (42_generator.md R62). -/
def splitChild (p : Gen) : Gen := construct (nextOut p) (nextOut (nextGen p))

/-- `split`: the parent afterwards, two steps on (42_generator.md R62, R63). -/
def splitParent (p : Gen) : Gen := { p with ctr := add64 p.ctr (mul64 2#64 p.inc) }

/-- `skip` (42_generator.md R64). -/
def skipGen (p : Gen) (distance : Word) : Gen := { p with ctr := add64 p.ctr (mul64 distance p.inc) }

/-- The word a field of a slot reads as (42_generator.md R66). -/
def readField (sl : Slot) : SlotField → Word
  | .x => sl.gen.x
  | .inc => sl.gen.inc
  | .ctr => sl.gen.ctr
  | .valid => validWord sl.valid

/-! ### The commands -/

/-- CONSTRUCT d (42_generator.md R59). -/
def execConstruct (d : SlotIx) (s : State) : Result :=
  if s.inRange d then (s.install d (construct s.seed s.streamIndex)).complete 0#64 else s.refuse .badSlot

/-- NEXT g (42_generator.md R61). -/
def execNext (g : SlotIx) (s : State) : Result :=
  s.withSource g fun p => (s.setCtr g (nextGen p).ctr).complete (nextOut p)

/-- SPLIT d, g (42_generator.md R63): both indices are checked before the parent's validity, and the destination is
written after the parent's counter. -/
def execSplit (d g : SlotIx) (s : State) : Result :=
  if s.inRange d then
    s.withSource g fun p => ((s.setCtr g (splitParent p).ctr).install d (splitChild p)).complete 0#64
  else s.refuse .badSlot

/-- SKIP g (42_generator.md R65). -/
def execSkip (g : SlotIx) (s : State) : Result :=
  s.withSource g fun p => (s.setCtr g (skipGen p s.distance).ctr).complete 0#64

/-- RDSTATE sel, g (42_generator.md R66): `valid` may be read of any slot in range, another field only of a valid one. -/
def execRdstate (sel : SlotField) (g : SlotIx) (s : State) : Result :=
  match s.slot? g with
  | none => s.refuse .badSlot
  | some sl => if sel = .valid ∨ sl.valid = true then s.complete (readField sl sel) else s.refuse .uninit

end Sys2Proof.Machine
end

