-- ==== Sys2Proof/Machine/Dispatch.lean ====
section
/-! DEFINITION. What a decoded command does: one arm per constructor of `Instr`. -/

namespace Sys2Proof.Machine

def exec (i : Instr) (s : State) : Host.Outcome State Fault Refusal :=
  match i with
  -- the Generator's commands (42_generator.md)
  | .construct d => Sys2Proof.Machine.execConstruct d s
  | .next g => Sys2Proof.Machine.execNext g s
  | .split d g => Sys2Proof.Machine.execSplit d g s
  | .skip g => Sys2Proof.Machine.execSkip g s
  | .rdstate sel g => Sys2Proof.Machine.execRdstate sel g s
  -- the pure functions (40_mixer.md, 41_expander.md)
  | .mix => Sys2Proof.Machine.execMix s
  | .expand16 => Sys2Proof.Machine.execExpand16 s
  | .expand32 => Sys2Proof.Machine.execExpand32 s

end Sys2Proof.Machine
end

