-- ==== Sys2Proof/Decode.lean ====
section
/-! DEFINITION. Decoding and encoding of command words (30_encoding.md R31 to R34, R36 to R38, R43). Decoding is total:
every 32-bit word is one of the eight commands or illegal, with the reason named. It looks neither at `NGEN`, nor at
`valid`, nor at the operand buses (R43). -/

namespace Sys2Proof

/-! ### The fields of a command word (30_encoding.md R31) -/

/-- Bits 31:24, the opcode. -/
def opField (w : CmdWord) : BitVec 8 := w.extractLsb' 24 8

/-- Bits 23:18, zero in every command (R34). -/
def zField (w : CmdWord) : BitVec 6 := w.extractLsb' 18 6

/-- Bits 17:16, the field selector of RDSTATE. -/
def selField (w : CmdWord) : BitVec 2 := w.extractLsb' 16 2

/-- Bits 15:8, the destination slot index. -/
def dField (w : CmdWord) : SlotIx := w.extractLsb' 8 8

/-- Bits 7:0, the source slot index. -/
def gField (w : CmdWord) : SlotIx := w.extractLsb' 0 8

/-- A command word from its fields, `z` being zero (R31, R34). -/
def packCmd (op : BitVec 8) (sel : BitVec 2) (d g : SlotIx) : CmdWord :=
  op.setWidth 32 <<< 24 ||| sel.setWidth 32 <<< 16 ||| d.setWidth 32 <<< 8 ||| g.setWidth 32

/-- The slot field a `sel` selects (30_encoding.md R37). -/
def fieldOfSel (sel : BitVec 2) : SlotField :=
  if sel = 0#2 then .x else if sel = 1#2 then .inc else if sel = 2#2 then .ctr else .valid

/-- The `sel` that selects a slot field (30_encoding.md R37). -/
def selOfField : SlotField → BitVec 2
  | .x => 0#2
  | .inc => 1#2
  | .ctr => 2#2
  | .valid => 3#2

/-! ### The opcode map (30_encoding.md R33) -/

/-- The rows of the opcode map. -/
inductive Row where
  | construct
  | next
  | split
  | skip
  | rdstate
  | mix
  | expand16
  | expand32
  deriving DecidableEq, Repr

/-- The rows in the order of the opcode map. -/
def allRows : List Row :=
  [.construct, .next, .split, .skip, .rdstate, .mix, .expand16, .expand32]

/-- Column `match` of R33. -/
def rowMatch : Row → CmdWord
  | .construct => 0x01000000#32
  | .next => 0x02000000#32
  | .split => 0x03000000#32
  | .skip => 0x04000000#32
  | .rdstate => 0x05000000#32
  | .mix => 0x08000000#32
  | .expand16 => 0x09000000#32
  | .expand32 => 0x0A000000#32

/-- Column `mask` of R33. -/
def rowMask : Row → CmdWord
  | .construct => 0xFFFF00FF#32
  | .next => 0xFFFFFF00#32
  | .split => 0xFFFF0000#32
  | .skip => 0xFFFFFF00#32
  | .rdstate => 0xFFFCFF00#32
  | .mix => 0xFFFFFFFF#32
  | .expand16 => 0xFFFFFFFF#32
  | .expand32 => 0xFFFFFFFF#32

/-- "A command word `cw` selects the row for which `(cw and mask) = match`" (R33). -/
def rowFits (w : CmdWord) (r : Row) : Bool := w &&& rowMask r == rowMatch r

/-- The command of a row, its free fields read from the word (R32, R43). -/
def rowRead (w : CmdWord) : Row → Instr
  | .construct => .construct (dField w)
  | .next => .next (gField w)
  | .split => .split (dField w) (gField w)
  | .skip => .skip (gField w)
  | .rdstate => .rdstate (fieldOfSel (selField w)) (gField w)
  | .mix => .mix
  | .expand16 => .expand16
  | .expand32 => .expand32

/-- Why a word is no command (30_encoding.md R38, 60_exceptions.md R76). The response says ILLEGAL in both cases; the names
are the model's (log 14). -/
inductive IllegalCause where
  /-- Its `op` is none of the eight opcodes. -/
  | undefinedOpcode
  /-- Its `op` is one of the eight, and a must-be-zero bit is set (R34). -/
  | mustBeZero
  deriving DecidableEq, Repr

/-- What a command word decodes to (30_encoding.md R43). -/
inductive Decoded where
  | command (i : Instr)
  | illegal (why : IllegalCause)
  deriving DecidableEq, Repr

/-- Which of R38's two causes makes a word illegal; where both do, the undefined opcode is named (log 14). -/
def illegalCause (w : CmdWord) : IllegalCause :=
  if allRows.any fun r => opField (rowMatch r) == opField w then .mustBeZero else .undefinedOpcode

/-- Decoding: "take the row of rule R33 whose match and mask fit, read the free fields, else ILLEGAL" (R43). -/
def decode (w : CmdWord) : Decoded :=
  match allRows.find? (rowFits w) with
  | some r => .command (rowRead w r)
  | none => .illegal (illegalCause w)

/-- The command word of a command (30_encoding.md R31, R32, R41). -/
def encode : Instr → CmdWord
  | .construct d => packCmd 0x01#8 0#2 d 0#8
  | .next g => packCmd 0x02#8 0#2 0#8 g
  | .split d g => packCmd 0x03#8 0#2 d g
  | .skip g => packCmd 0x04#8 0#2 0#8 g
  | .rdstate sel g => packCmd 0x05#8 (selOfField sel) 0#8 g
  | .mix => packCmd 0x08#8 0#2 0#8 0#8
  | .expand16 => packCmd 0x09#8 0#2 0#8 0#8
  | .expand32 => packCmd 0x0A#8 0#2 0#8 0#8

/-- The command the decoder reads from a row's `nbits` bits `w`, every bit above them zero. A command word has 32 bits and
no other length (30_encoding.md R31, R40); a number that does not fit in one is no command. -/
def decodeTableWord (nbits w : Nat) : Option Instr :=
  if w % 2 ^ nbits < 2 ^ 32 then
    match decode (BitVec.ofNat 32 (w % 2 ^ nbits)) with
    | .command i => some i
    | .illegal _ => none
  else none

end Sys2Proof
end

