-- ==== Sys2Proof/Machine/Fetch.lean ====
section
/-! DEFINITION. What the block takes from its ports at a step: the command the host presents next, or what else the host
does (30_encoding.md R30, 70_reset_and_hazards.md R87, R88, R94). There is no fetch from memory and no program counter
(10_state.md R18). -/

namespace Sys2Proof.Machine

/-- `rst` (70_reset_and_hazards.md R87, R88): every slot not valid; no response pending, so the commands whose responses
were not taken give none. `NGEN`, what the host does next and what it has taken stay (log 6). The slots' unspecified words
become those of `Slot.reset` (log 2). -/
def State.applyReset (s : State) : State :=
  { s with slots := s.slots.map fun _ => Slot.reset, pending := [] }

/-- The host takes the oldest pending response, if there is one (30_encoding.md R30, 70_reset_and_hazards.md R90). -/
def State.takeResponse (s : State) : State :=
  match s.pending with
  | [] => s
  | r :: rest => { s with pending := rest, taken := s.taken ++ [r] }

/-- The operand buses as presented with a command, and what the host does after it (30_encoding.md R30). -/
def State.present (s : State) (a b : Word) (rest : List HostEvent) : State :=
  { s with cmdA := a, cmdB := b, host := rest }

/-- What a step finds at the ports: a legal command to run, or something that is settled without one. -/
inductive Fetched where
  | settled (s : State)
  | run (i : Instr) (s : State)
  deriving DecidableEq, Repr

/-- A presented command is decoded; a word that is no command is refused with ILLEGAL, whatever its operands and whatever
the state (60_exceptions.md R76, R77, R78). -/
def State.accept (s : State) (word : CmdWord) (a b : Word) (rest : List HostEvent) : Fetched :=
  match decode word with
  | .command i => .run i (s.present a b rest)
  | .illegal _ => .settled ((s.present a b rest).respond .illegal 0#64)

/-- The next thing at the ports. With nothing there the block is idle and keeps all state (60_exceptions.md R84). -/
def State.fetch (s : State) : Fetched :=
  match s.host with
  | [] => .settled s
  | .command word a b :: rest => s.accept word a b rest
  | .takeResponse :: rest => .settled { s.takeResponse with host := rest }
  | .reset :: rest => .settled { s.applyReset with host := rest }

/-- The command word of a row's `nbits` bits `w`, both operand buses 0, presented before anything else the host does. -/
def State.placeCommand (s : State) (nbits w : Nat) : State :=
  { s with host := .command (BitVec.ofNat 32 (w % 2 ^ nbits)) 0#64 0#64 :: s.host }

end Sys2Proof.Machine
end

