-- ==== Sys2Proof/Machine/Step.lean ====
section
/-! DEFINITION. One step of the machine: what the host does next, executed whole (20_memory.md R24, R25). -/

namespace Sys2Proof.Machine

/-- One step: a legal command runs; anything else the host does is settled at the ports; with nothing presented, nothing
changes. -/
def step (s : State) : Host.Outcome State Fault Refusal :=
  match s.fetch with
  | .settled t => .next t
  | .run i t => exec i t

/-- `s` with the command of a row's word presented next, its operand buses 0 (log 4). -/
def State.withFetchWord (s : State) (nbits w : Nat) : State := s.placeCommand nbits w

end Sys2Proof.Machine
end

