-- ==== Sys2Proof/WellFormed.lean ====
section
/-! DEFINITION. Which commands an instance with `ngen` slots can carry out: those whose slot indices are all in range
(30_encoding.md R36). Every command, well formed or not, has a command word (indices have 8 bits whatever `NGEN` is), and
decoding does not look at `NGEN` (R43); the block refuses an ill-formed command with BADSLOT (60_exceptions.md R76). -/

namespace Sys2Proof

/-- The slot indices a command uses (the table of 60_exceptions.md R76, row BADSLOT). -/
def Instr.indices : Instr → List SlotIx
  | .construct d => [d]
  | .next g => [g]
  | .split d g => [d, g]
  | .skip g => [g]
  | .rdstate _ g => [g]
  | .mix => []
  | .expand16 => []
  | .expand32 => []

/-- A command is well formed for an instance with `ngen` slots when every slot index it uses is in range
(30_encoding.md R36). -/
def Instr.wellFormed (ngen : Nat) (i : Instr) : Bool :=
  i.indices.all fun ix => decide (ix.toNat < ngen)

/-- The source slot of a command that needs a constructed generator in it (the table of 60_exceptions.md R76, row
UNINIT); RDSTATE of `valid` needs none. -/
def Instr.source? : Instr → Option SlotIx
  | .construct _ => none
  | .next g => some g
  | .split _ g => some g
  | .skip g => some g
  | .rdstate .x g => some g
  | .rdstate .inc g => some g
  | .rdstate .ctr g => some g
  | .rdstate .valid _ => none
  | .mix => none
  | .expand16 => none
  | .expand32 => none

end Sys2Proof
end

