-- ==== Sys2Proof/Safety.lean ====
section
/-! DEFINITION. The terms in which claims about the NASAM core are stated: what a state must satisfy, what status a command
is due, what an advance of a slot is, what the host can see of a state. Nothing here is part of the machine. -/

namespace Sys2Proof

/-! ### What a command is for (10_state.md R11) -/

/-- Whether a command has a result, so that `rsp_data` may differ from 0 (30_encoding.md R39). -/
def Instr.hasResult : Instr → Bool
  | .construct _ => false
  | .next _ => true
  | .split _ _ => false
  | .skip _ => false
  | .rdstate _ _ => true
  | .mix => true
  | .expand16 => true
  | .expand32 => true

/-- The slot in which a command that completes begins a new generator (10_state.md R11, R17). -/
def Instr.dest? : Instr → Option SlotIx
  | .construct d => some d
  | .next _ => none
  | .split d _ => some d
  | .skip _ => none
  | .rdstate _ _ => none
  | .mix => none
  | .expand16 => none
  | .expand32 => none

/-- How far a command moves the counter of the valid slot `ix`, in advances modulo 2^64, `a` being its `cmd_a`: one for a
NEXT, two for a SPLIT from it into another slot that exists, the distance for a SKIP (10_state.md R15). -/
def Instr.advance (ngen : Nat) (ix : SlotIx) (a : Word) : Instr → Word
  | .construct _ => 0#64
  | .next g => if g = ix then 1#64 else 0#64
  | .split d g => if g = ix ∧ d ≠ ix ∧ d.toNat < ngen then 2#64 else 0#64
  | .skip g => if g = ix then a else 0#64
  | .rdstate _ _ => 0#64
  | .mix => 0#64
  | .expand16 => 0#64
  | .expand32 => 0#64

end Sys2Proof

namespace Sys2Proof.Machine

/-! ### Bits -/

/-- The number of set bits of a word. -/
def popcount {n : Nat} (v : BitVec n) : Nat := (List.range n).countP fun k => v.getLsbD k

/-- "number of differing bits between two equal-length bit patterns" (00_scope.md section 6). -/
def hd {n : Nat} (a b : BitVec n) : Nat := popcount (a ^^^ b)

/-! ### What every state must satisfy -/

/-- What 42_generator.md R67 (a), (b), (e) says of every constructed generator: `inc[1:0] = 0b01`, `inc[63:34]` is that
of `INC_BASE`, and `x` is the Expander's word for `inc[63:32]`. -/
abbrev Gen.Constructed (p : Gen) : Prop :=
  p.inc.extractLsb' 0 2 = 1#2 ∧ p.inc.extractLsb' 34 30 = 0x16F83346#30 ∧ p.x = expand32 (p.inc.extractLsb' 32 32)

/-- The invariant of the machine: `1 <= NGEN <= 256` (10_state.md R11), and every valid slot holds a constructed generator
(10_state.md R16, 42_generator.md R67). -/
abbrev State.Inv (s : State) : Prop :=
  Config.LegalNgen s.slots.length ∧ ∀ sl ∈ s.slots, sl.valid = true → sl.gen.Constructed

/-- A safe step: the block goes on. -/
def State.Goes (s : State) : Prop := ∃ t, step s = .next t

/-! ### The checks -/

/-- The status a decoded command is due, the checks in the order of 60_exceptions.md R77: range of every index it uses,
then validity of its source slot if it needs a generator there. -/
def State.dueStatus (s : State) (i : Instr) : Status :=
  if i.wellFormed s.slots.length = false then .badSlot
  else
    match i.source? with
    | none => .ok
    | some g => if s.isValid g then .ok else .uninit

/-- The status a command word is due: decoding is the first of the checks (60_exceptions.md R77). -/
def State.dueForWord (s : State) (w : CmdWord) : Status :=
  match decode w with
  | .command i => s.dueStatus i
  | .illegal _ => .illegal

/-! ### Runs of commands -/

/-- The event presents a command, legal or not. -/
def HostEvent.isCommand : HostEvent → Bool
  | .command _ _ _ => true
  | .takeResponse => false
  | .reset => false

/-- The event is a command that begins a generator in slot `ix` if it completes. -/
def HostEvent.beginsIn (ix : SlotIx) : HostEvent → Bool
  | .command w _ _ =>
    match decode w with
    | .command i => i.dest? == some ix
    | .illegal _ => false
  | .takeResponse => false
  | .reset => false

/-- How far an event moves the counter of the valid slot `ix`, in advances modulo 2^64 (10_state.md R15). -/
def HostEvent.advance (ngen : Nat) (ix : SlotIx) : HostEvent → Word
  | .command w a _ =>
    match decode w with
    | .command i => i.advance ngen ix a
    | .illegal _ => 0#64
  | .takeResponse => 0#64
  | .reset => 0#64

/-- The advances of a list of events together. -/
def totalAdvance (ngen : Nat) (ix : SlotIx) (evs : List HostEvent) : Word :=
  evs.foldr (fun e acc => e.advance ngen ix + acc) 0#64

/-- The commands of 42_generator.md R70 on one slot: NEXT, SKIP, and SPLIT with the slot as source. -/
inductive SlotOp where
  | next
  | skip (distance : Word)
  | splitTo (d : SlotIx)
  deriving DecidableEq, Repr

/-- The command word of an operation on slot `ix`, with the buses that carry its operands. -/
def SlotOp.event (ix : SlotIx) : SlotOp → HostEvent
  | .next => .command (encode (.next ix)) 0#64 0#64
  | .skip distance => .command (encode (.skip ix)) distance 0#64
  | .splitTo d => .command (encode (.split d ix)) 0#64 0#64

/-! ### What can be seen of a state -/

/-- Two slots that differ at most in the words of a slot that is not valid. -/
def Slot.SameSeen (a b : Slot) : Prop := a.valid = b.valid ∧ (a.valid = true → a.gen = b.gen)

/-- Two states that differ at most in the words of slots that are not valid (10_state.md R19). -/
def State.SameSeen (s t : State) : Prop :=
  s.slots.length = t.slots.length ∧
    (∀ (k : Nat) (a b : Slot), s.slots[k]? = some a → t.slots[k]? = some b → a.SameSeen b) ∧
    s.cmdA = t.cmdA ∧ s.cmdB = t.cmdB ∧ s.host = t.host ∧ s.pending = t.pending ∧ s.taken = t.taken

end Sys2Proof.Machine
end

