-- ==== Sys2Proof/Certificates/Slice0/Obligations.lean ====
section
/-! DEFINITION. The statements about the NASAM core that the provers are given. Each docstring names the rule of spec/ it
formalises. A statement about every state `s` holds for every `NGEN`, which is `s.slots.length`. -/

open Sys2Proof Sys2Proof.Machine

/-! ### Words -/

/-- 00_scope.md R4: wrapping addition and multiplication, the product the same for signed and unsigned operands. -/
def Obligations.AddAndMultiplyWrap : Prop :=
  ∀ a b : Word,
    (add64 a b).toNat = (a.toNat + b.toNat) % 2 ^ 64 ∧
    (mul64 a b).toNat = (a.toNat * b.toNat) % 2 ^ 64 ∧
    mul64 a b = BitVec.ofInt 64 (a.toInt * b.toInt)

/-- 00_scope.md R5: the rotation right, as a number and bit by bit, with the rule's examples. -/
def Obligations.RotateRightMovesBits : Prop :=
  (∀ (v : Word) (r : Nat), 0 < r → r < 64 →
    (rotr64 v r).toNat = ((v.toNat >>> r) ||| (v.toNat <<< (64 - r))) % 2 ^ 64 ∧
    ∀ k : Nat, k < 64 → (rotr64 v r).getLsbD k = v.getLsbD ((k + r) % 64)) ∧
  rotr64 0x0000000000000001#64 25 = 0x0000008000000000#64 ∧
  rotr64 0x0123456789ABCDEF#64 25 = 0xD5E6F78091A2B3C4#64

/-- 00_scope.md R3 and R6: logical shifts, zero extension and the slices the commands take, as numbers. -/
def Obligations.ShiftsAndSlicesAsNumbers : Prop :=
  (∀ (n : Nat) (v : BitVec n) (k : Nat),
    (shr v k).toNat = v.toNat / 2 ^ k ∧ (shl v k).toNat = (v.toNat * 2 ^ k) % 2 ^ n) ∧
  (∀ (n : Nat) (v : BitVec n), n ≤ 64 → (zext64 v).toNat = v.toNat) ∧
  ∀ v : Word,
    (high32 v).toNat = v.toNat / 2 ^ 32 ∧ (low32 v).toNat = v.toNat % 2 ^ 32 ∧ (low16 v).toNat = v.toNat % 2 ^ 16

/-! ### Mixer -/

/-- 40_mixer.md R45: the steps of `mix`, every right-hand side reading the value of the step before, the constants, and the
worked example. -/
def Obligations.MixFollowsItsSteps : Prop :=
  (∀ v tweak : Word,
    let v1 := v ^^^ tweak
    let v2 := v1 ^^^ v1.rotateRight 25 ^^^ v1.rotateRight 47
    let v3 := v2 * 0x9E6C63D0676A9A99#64
    let v4 := v3 ^^^ (v3 >>> 23) ^^^ (v3 >>> 51)
    let v5 := v4 * 0x9E6D62D06F6A9A9B#64
    let v6 := v5 ^^^ (v5 >>> 23) ^^^ (v5 >>> 51)
    mix v tweak = v6) ∧
  mixK1.toNat = 11415608902216751769 ∧ mixK2.toNat = 11415889277816052379 ∧
  mixRotate 0x0000000000000001#64 = 0x0000008000020001#64 ∧
  mul64 0x0000008000020001#64 mixK1 = 0x1B5A7F259C9C9A99#64 ∧
  mixShift 0x1B5A7F259C9C9A99#64 = 0x1B5A7F132862D2CB#64 ∧
  mul64 0x1B5A7F132862D2CB#64 mixK2 = 0x9C1A042633B1BEE9#64 ∧
  mixShift 0x9C1A042633B1BEE9#64 = 0x9C1A051E07B9E10D#64 ∧
  mix 0x0000000000000001#64 0#64 = 0x9C1A051E07B9E10D#64

/-- 40_mixer.md R47: (a) only `v xor tweak` matters, (b) `mix(v, v) = 0` and what follows for construct, (c) `mix` is a
bijection for a fixed tweak operand, with the inverses the rule names. -/
def Obligations.MixFacts : Prop :=
  (∀ v t : Word, mix v t = mix (v ^^^ t) 0#64 ∧ mix v t = mix 0#64 (v ^^^ t) ∧ mix v t = mix t v) ∧
  (∀ v : Word, mix v v = 0#64) ∧ mix 0#64 0#64 = 0#64 ∧
  (∀ s : Word, (construct 0#64 s).ctr = 0#64) ∧ streamTweak 1#64 = 0#64 ∧
  (∀ t : Word, Function.Bijective fun v => mix v t) ∧
  (∀ v : Word, Nat.iterate mixRotate 63 (mixRotate v) = v ∧ mixRotate (Nat.iterate mixRotate 63 v) = v) ∧
  (∀ v : Word, mul64 (mul64 v mixK1) 0xB23D0FA7011F19A9#64 = v ∧ mul64 (mul64 v mixK2) 0xFB3AD0BA8D2EBB93#64 = v) ∧
  (∀ (v : Word) (k : Nat), k < 64 →
    (41 ≤ k → (mixShift v).getLsbD k = v.getLsbD k) ∧
    (mixShift v).getLsbD k = ((v.getLsbD k ^^ v.getLsbD (k + 23)) ^^ v.getLsbD (k + 51))) ∧
  Function.Bijective mixShift

/-! ### Expander -/

/-- 41_expander.md R50: the steps of `expand16`, the left shift within 32 bits, and the rule's examples. -/
def Obligations.Expand16FollowsItsSteps : Prop :=
  (∀ w : Quarter,
    let a1 : Quarter := ~~~w
    let a2 : Quarter := a1 ^^^ (a1 >>> 12)
    let f0 : Half := (a2.setWidth 32 <<< 16) ||| w.setWidth 32
    let f1 : Half := f0 ^^^ (f0 >>> 12)
    let f2 : Half := f1 ^^^ (f1 <<< 13)
    let f3 : Half := f2 ^^^ (f2 >>> 14)
    expand16 w = f3 ∧ a1.toNat = 2 ^ 16 - 1 - w.toNat ∧
    a2.extractLsb' 4 12 = a1.extractLsb' 4 12 ∧ a2.extractLsb' 0 4 = a1.extractLsb' 0 4 ^^^ a1.extractLsb' 12 4) ∧
  expand16 0x1234#16 = 0x94053E78#32 ∧ expand16 0x0000#16 = 0x001FFF7F#32 ∧ expand16 0xFFFF#16 = 0x1FFE800B#32

/-- 41_expander.md R51: each half is expanded on its own, the high half to the high half; the rule's examples. -/
def Obligations.Expand32ExpandsBothHalves : Prop :=
  (∀ w : Half,
    (expand32 w).extractLsb' 32 32 = expand16 (w.extractLsb' 16 16) ∧
    (expand32 w).extractLsb' 0 32 = expand16 (w.extractLsb' 0 16)) ∧
  expand16 0x5BE0#16 = 0x4748A793#32 ∧ expand16 0xCD19#16 = 0xEE8DF97C#32 ∧
  expand32 0x5BE0CD19#32 = 0x4748A793EE8DF97C#64 ∧ expand32 0x00000000#32 = 0x001FFF7F001FFF7F#64 ∧
  expand32 0xFFFFFFFF#32 = 0x1FFE800B1FFE800B#64 ∧ expand32 0x0000FFFF#32 = 0x001FFF7F1FFE800B#64 ∧
  expand32 0xFFFF0000#32 = 0x1FFE800B001FFF7F#64

/-- 41_expander.md R54: outputs of `expand16` for different inputs differ in at least 6 bits; 6 is reached by exactly nine
differences, and 27 is the most. -/
def Obligations.Expand16MinimumDistance : Prop :=
  (∀ a b : Quarter, a ≠ b →
    6 ≤ hd (expand16 a) (expand16 b) ∧ hd (expand16 a) (expand16 b) ≤ 27 ∧
    (hd (expand16 a) (expand16 b) = 6 ↔
      a ^^^ b ∈ [0x2003#16, 0x4006#16, 0x7D9B#16, 0x800C#16, 0x923C#16, 0x9F58#16, 0xAC81#16, 0xB23F#16, 0xEC87#16])) ∧
  ∃ a b : Quarter, hd (expand16 a) (expand16 b) = 27

/-- 41_expander.md R55: `expand16` is affine over GF(2), with the rule's columns of its linear part, and injective. -/
def Obligations.Expand16IsAffine : Prop :=
  expand16 0#16 = 0x001FFF7F#32 ∧
  (∃ L : Quarter → Half,
    (∀ a b : Quarter, L (a ^^^ b) = L a ^^^ L b) ∧
    (∀ w : Quarter, expand16 w = L w ^^^ 0x001FFF7F#32) ∧
    (∀ a b : Quarter, expand16 a ^^^ expand16 b = L (a ^^^ b) ∧
      hd (expand16 a) (expand16 b) = popcount (L (a ^^^ b))) ∧
    (List.range 16).map (fun k => L (1#16 <<< k)) =
      [0x2003A01D#32, 0x4007403B#32, 0x800E8076#32, 0x001900EC#32, 0x003201D8#32, 0x006403B0#32, 0x00C80760#32,
       0x01900EC0#32, 0x03201D80#32, 0x06403B00#32, 0x0C807601#32, 0x1900EC02#32, 0x12027819#32, 0x2404F033#32,
       0x4809E067#32, 0x9013C0CE#32]) ∧
  Function.Injective expand16

/-- 41_expander.md R56: `expand32` keeps the distance, is injective and affine, and only four of its words occur as `x`. -/
def Obligations.Expand32KeepsDistance : Prop :=
  (∀ a b : Half, a ≠ b → 6 ≤ hd (expand32 a) (expand32 b)) ∧
  (∀ a b : Half, a.extractLsb' 16 16 ≠ b.extractLsb' 16 16 → a.extractLsb' 0 16 ≠ b.extractLsb' 0 16 →
    12 ≤ hd (expand32 a) (expand32 b)) ∧
  Function.Injective expand32 ∧
  (∃ L : Half → Word, (∀ a b : Half, L (a ^^^ b) = L a ^^^ L b) ∧ ∀ w : Half, expand32 w = L w ^^^ 0x001FFF7F001FFF7F#64) ∧
  ∀ seed streamIndex : Word,
    (construct seed streamIndex).x = expand32 ((construct seed streamIndex).inc.extractLsb' 32 32) ∧
    (construct seed streamIndex).x ∈
      [0x4748A793EE8DF97C#64, 0x4748A793CE8E5961#64, 0x4748A793AE8AB947#64, 0x4748A7938E89195A#64]

/-! ### Generator values -/

/-- 42_generator.md R58: the steps of construct, the shift in 64 bits, and the two worked examples. -/
def Obligations.ConstructFollowsItsSteps : Prop :=
  (∀ seed streamIndex : Word,
    let counter0 := mix seed 0x0000000000000000#64
    let tweak := mix streamIndex 0x0000000000000001#64
    let t32 := tweak &&& 0x00000000FFFFFFFF#64
    let t34 := t32 <<< 2
    let inc := 0x5BE0CD19137E2179#64 ^^^ t34
    construct seed streamIndex = { x := expand32 (inc.extractLsb' 32 32), inc := inc, ctr := counter0 } ∧
    t34.toNat = 4 * (tweak.toNat % 2 ^ 32)) ∧
  construct 0#64 0#64 =
    { x := 0x4748A793EE8DF97C#64, inc := 0x5BE0CD190D99A54D#64, ctr := 0x0000000000000000#64 } ∧
  construct 0xFFFFFFFFFFFFFFFF#64 0xFFFFFFFFFFFFFFFF#64 =
    { x := 0x4748A7938E89195A#64, inc := 0x5BE0CD1A5E2737C9#64, ctr := 0x6E0C60E83AC07309#64 }

/-- 42_generator.md R60: the counter before the advance is mixed; `x` and `inc` stay; the addition wraps; the worked
example. -/
def Obligations.NextMixesTheOldCounter : Prop :=
  (∀ p : Gen, nextOut p = mix p.ctr p.x ∧ nextGen p = { x := p.x, inc := p.inc, ctr := p.ctr + p.inc }) ∧
  (∀ seed streamIndex : Word,
    nextOut (construct seed streamIndex) = mix (mix seed 0#64) (construct seed streamIndex).x) ∧
  nextOut (construct 0#64 0#64) = 0x09508DAE631E69D3#64 ∧
  (nextGen (construct 0#64 0#64)).ctr = 0x5BE0CD190D99A54D#64 ∧
  nextOut (nextGen (construct 0#64 0#64)) = 0x0D01FF4759780786#64 ∧
  (nextGen (nextGen (construct 0#64 0#64))).ctr = 0xB7C19A321B334A9A#64 ∧
  nextOut (nextGen (nextGen (construct 0#64 0#64))) = 0xAC864A9ABDCE5F68#64 ∧
  (nextGen (nextGen (nextGen (construct 0#64 0#64)))).ctr = 0x13A2674B28CCEFE7#64

/-- 42_generator.md R62: split draws two outputs, the first the child's seed, the second its stream index, and leaves the
parent two steps on; the worked example. -/
def Obligations.SplitDrawsTwoOutputs : Prop :=
  (∀ p : Gen,
    let a := mix p.ctr p.x
    let b := mix (p.ctr + p.inc) p.x
    splitChild p = construct a b ∧ (splitChild p).ctr = mix a 0#64 ∧
    splitParent p = { x := p.x, inc := p.inc, ctr := p.ctr + 2#64 * p.inc } ∧ splitParent p = nextGen (nextGen p)) ∧
  construct 0x0123456789ABCDEF#64 0xFEDCBA9876543210#64 =
    { x := 0x4748A793EE8DF97C#64, inc := 0x5BE0CD19EB21AB59#64, ctr := 0x770F13A0AB5B163D#64 } ∧
  splitChild (construct 0x0123456789ABCDEF#64 0xFEDCBA9876543210#64) =
    { x := 0x4748A793EE8DF97C#64, inc := 0x5BE0CD198E21D04D#64, ctr := 0xB5D655885E49F4A7#64 } ∧
  (splitParent (construct 0x0123456789ABCDEF#64 0xFEDCBA9876543210#64)).ctr = 0x2ED0ADD4819E6CEF#64

/-- 42_generator.md R64: skip moves the counter by `distance * inc`, signed and unsigned distances alike; skips add up; a
skip is undone by its negative; the worked example. -/
def Obligations.SkipMovesTheCounter : Prop :=
  (∀ (p : Gen) (distance : Word),
    (skipGen p distance).x = p.x ∧ (skipGen p distance).inc = p.inc ∧
    (skipGen p distance).ctr.toNat = (p.ctr.toNat + distance.toNat * p.inc.toNat) % 2 ^ 64 ∧
    (skipGen p distance).ctr = p.ctr + BitVec.ofInt 64 (distance.toInt * p.inc.toInt)) ∧
  (∀ p : Gen, skipGen p 0#64 = p) ∧
  (∀ (p : Gen) (d1 d2 : Word), skipGen (skipGen p d1) d2 = skipGen p (d1 + d2)) ∧
  (∀ (p : Gen) (n : Nat), n ≤ 2 ^ 64 → skipGen (skipGen p (BitVec.ofNat 64 n)) (BitVec.ofNat 64 (2 ^ 64 - n)) = p) ∧
  construct 42#64 7#64 =
    { x := 0x4748A793AE8AB947#64, inc := 0x5BE0CD1B40EAA589#64, ctr := 0x01EB40173614AA2A#64 } ∧
  (skipGen (construct 42#64 7#64) 5#64).ctr = 0xCD4F419F7AA9E5D7#64 ∧
  (Nat.iterate nextGen 5 (construct 42#64 7#64)).ctr = 0xCD4F419F7AA9E5D7#64

/-- 42_generator.md R67: the structure of `inc` and `x` in every constructed generator, (a) to (f) with the table. -/
def Obligations.StructureOfIncAndX : Prop :=
  (∀ seed streamIndex : Word,
    let p := construct seed streamIndex
    let tweak := mix streamIndex 1#64
    p.inc.extractLsb' 0 2 = 0b01#2 ∧ p.inc.toNat % 2 = 1 ∧
    p.inc.extractLsb' 34 30 = 0x16F83346#30 ∧
    p.inc.extractLsb' 2 32 = 0x44DF885E#32 ^^^ tweak.extractLsb' 0 32 ∧
    p.inc.extractLsb' 32 32 = 0x5BE0CD19#32 ^^^ (tweak.extractLsb' 30 2).setWidth 32 ∧
    p.x.extractLsb' 32 32 = 0x4748A793#32 ∧
    p.x = (if tweak.extractLsb' 30 2 = 0b00#2 then 0x4748A793EE8DF97C#64
      else if tweak.extractLsb' 30 2 = 0b01#2 then 0x4748A793CE8E5961#64
      else if tweak.extractLsb' 30 2 = 0b10#2 then 0x4748A793AE8AB947#64
      else 0x4748A7938E89195A#64)) ∧
  (∀ seed i j : Word, (mix i 1#64).extractLsb' 0 32 = (mix j 1#64).extractLsb' 0 32 →
    construct seed i = construct seed j) ∧
  (∀ seed i : Word, ∃ e : Half → Word, Function.Injective e ∧
    ∀ j : Word, (construct seed j).inc = (construct seed i).inc ↔ ∃ h, e h = j) ∧
  (∃ e : Half → Word, Function.Injective e ∧
    ∀ inc : Word, (∃ seed i : Word, (construct seed i).inc = inc) ↔ ∃ h, e h = inc) ∧
  [hd 0x4748A793CE8E5961#64 0x4748A793EE8DF97C#64, hd 0x4748A793CE8E5961#64 0x4748A7938E89195A#64,
   hd 0x4748A793CE8E5961#64 0x4748A793AE8AB947#64, hd 0x4748A793EE8DF97C#64 0x4748A7938E89195A#64,
   hd 0x4748A793EE8DF97C#64 0x4748A793AE8AB947#64, hd 0x4748A7938E89195A#64 0x4748A793AE8AB947#64] =
    [9, 10, 9, 9, 10, 9] ∧
  (construct 0#64 0#64).inc = 0x5BE0CD190D99A54D#64 ∧
  (construct 0#64 0x0CAA6E9242D1F2D1#64).inc = 0x5BE0CD190D99A54D#64 ∧
  (construct 0#64 0x0CAA6E9242D1F2D1#64).x = (construct 0#64 0#64).x ∧
  streamTweak 0x0CAA6E9242D1F2D1#64 = 0x9C1A051F07B9E10D#64 ∧
  streamTweak 0x18DE9EF15FB5B1F8#64 = 0x9C1A051E07B9E10C#64 ∧
  (construct 0#64 0x18DE9EF15FB5B1F8#64).inc = 0x5BE0CD190D99A549#64 ∧
  hd 0x5BE0CD190D99A54D#64 0x5BE0CD190D99A549#64 = 1

/-- 42_generator.md R68 (read as 90_conflicts.md C4): a skip by `n` and then one next give the output and the generator of
the last of `n + 1` nexts, for every 64-bit `n`. -/
def Obligations.SkipEqualsRepeatedNext : Prop :=
  ∀ (p : Gen) (n : Word),
    skipGen p n = Nat.iterate nextGen n.toNat p ∧
    nextOut (skipGen p n) = nextOut (Nat.iterate nextGen n.toNat p) ∧
    nextGen (skipGen p n) = Nat.iterate nextGen (n.toNat + 1) p

/-- 42_generator.md R69: the counter runs through every word once in 2^64 nexts, any counter is reached by one skip, and
the outputs of a period are all the words, each once. -/
def Obligations.PeriodOfTheCounter : Prop :=
  (∀ p : Gen, p.inc.toNat % 2 = 1 →
    Function.Bijective (fun k : Word => add64 p.ctr (mul64 k p.inc)) ∧
    Nat.iterate nextGen (2 ^ 64) p = p ∧
    (∀ n : Nat, 0 < n → n < 2 ^ 64 → (Nat.iterate nextGen n p).ctr ≠ p.ctr) ∧
    (∀ word : Word, ∃ n : Nat, n < 2 ^ 64 ∧ nextOut (Nat.iterate nextGen n p) = word ∧
      ∀ m : Nat, m < 2 ^ 64 → nextOut (Nat.iterate nextGen m p) = word → m = n) ∧
    ∃ inv : Word, mul64 p.inc inv = 1#64) ∧
  (∀ (p : Gen) (inv target : Word), mul64 p.inc inv = 1#64 →
    (skipGen p (mul64 (target - p.ctr) inv)).ctr = target) ∧
  mul64 0x5BE0CD190D99A54D#64 0x8434C8E30EB61B85#64 = 1#64

/-- 42_generator.md R71, its exact part: the children of two successive splits of one parent are constructed from four
successive outputs of the parent, which are pairwise distinct; and the second child of 95_test_vectors.md section 4.5. -/
def Obligations.SuccessiveSplitsDrawDistinctWords : Prop :=
  (∀ p : Gen, p.inc.toNat % 2 = 1 →
    let out := fun k : Nat => nextOut (Nat.iterate nextGen k p)
    splitChild p = construct (out 0) (out 1) ∧
    splitChild (splitParent p) = construct (out 2) (out 3) ∧
    ∀ j k : Nat, j < k → k < 4 → out j ≠ out k) ∧
  splitChild (splitParent (construct 0x0123456789ABCDEF#64 0xFEDCBA9876543210#64)) =
    { x := 0x4748A793AE8AB947#64, inc := 0x5BE0CD1B73D1C5E5#64, ctr := 0xB57B78AA8DBBC146#64 } ∧
  (splitParent (splitParent (construct 0x0123456789ABCDEF#64 0xFEDCBA9876543210#64))).ctr = 0xE692480857E1C3A1#64

/-- 93_implementation_defined.md U6: the spec's 64-bit shift and the 32-bit alternative give the same increment exactly
when `tweak[31:30] = 00`; under the alternative `inc[63:32]` is constant. The model follows the first (log 7). -/
def Obligations.ShiftReadingsAgreeExactlyWhen : Prop :=
  ∀ tweak : Word,
    (incOfTweak true tweak = incOfTweak false tweak ↔ tweak.extractLsb' 30 2 = 0b00#2) ∧
    (incOfTweak false tweak).extractLsb' 32 32 = 0x5BE0CD19#32 ∧
    (incOfTweak false tweak).extractLsb' 0 32 = (incOfTweak true tweak).extractLsb' 0 32 ∧
    xOfInc (incOfTweak false tweak) = 0x4748A793EE8DF97C#64

/-! ### Encoding -/

/-- 95_test_vectors.md section 5.1 and 30_encoding.md section 7: some words written out from the encodings. -/
def Obligations.SampleWordsDecode : Prop :=
  decode 0x0100FF00#32 = .command (.construct 255#8) ∧ decode 0x02000003#32 = .command (.next 3#8) ∧
  decode 0x03000100#32 = .command (.split 1#8 0#8) ∧ decode 0x03000001#32 = .command (.split 0#8 1#8) ∧
  decode 0x04000001#32 = .command (.skip 1#8) ∧ decode 0x05010000#32 = .command (.rdstate .inc 0#8) ∧
  decode 0x05030001#32 = .command (.rdstate .valid 1#8) ∧ decode 0x08000000#32 = .command .mix ∧
  decode 0x09000000#32 = .command .expand16 ∧ decode 0x0A000000#32 = .command .expand32 ∧
  decode 0x00000000#32 = .illegal .undefinedOpcode ∧ decode 0x05040000#32 = .illegal .mustBeZero

/-- 30_encoding.md R43: the row whose match and mask fit is read, else ILLEGAL; encoding and decoding are inverse to each
other, with every field at every value; what is decoded does not depend on the state or the buses. -/
def Obligations.DecodeAndEncodeAgree : Prop :=
  (∀ i : Instr, decode (encode i) = .command i) ∧
  (∀ (w : CmdWord) (i : Instr), decode w = .command i → encode i = w) ∧
  (∀ (w : CmdWord) (r : Row), w &&& rowMask r = rowMatch r → decode w = .command (rowRead w r)) ∧
  (∀ w : CmdWord, (∀ r : Row, w &&& rowMask r ≠ rowMatch r) → ∃ why, decode w = .illegal why) ∧
  ∀ (s : State) (w : CmdWord) (a b : Word) (rest : List HostEvent), s.host = .command w a b :: rest →
    (∀ i, decode w = .command i → ∃ t, s.fetch = .run i t) ∧
    (∀ why, decode w = .illegal why → ∃ t, s.fetch = .settled t)

/-- 30_encoding.md R31 to R34, R37, R41: each command shape has exactly one word, which is the opcode with its fields; so
no must-be-zero bit may be set and no second spelling exists. -/
def Obligations.EachCommandHasOneWord : Prop :=
  ∀ w : CmdWord,
    (∀ d : SlotIx, decode w = .command (.construct d) ↔ w.toNat = 0x01000000 + 256 * d.toNat) ∧
    (∀ g : SlotIx, decode w = .command (.next g) ↔ w.toNat = 0x02000000 + g.toNat) ∧
    (∀ d g : SlotIx, decode w = .command (.split d g) ↔ w.toNat = 0x03000000 + 256 * d.toNat + g.toNat) ∧
    (∀ g : SlotIx, decode w = .command (.skip g) ↔ w.toNat = 0x04000000 + g.toNat) ∧
    (∀ g : SlotIx, decode w = .command (.rdstate .x g) ↔ w.toNat = 0x05000000 + g.toNat) ∧
    (∀ g : SlotIx, decode w = .command (.rdstate .inc g) ↔ w.toNat = 0x05010000 + g.toNat) ∧
    (∀ g : SlotIx, decode w = .command (.rdstate .ctr g) ↔ w.toNat = 0x05020000 + g.toNat) ∧
    (∀ g : SlotIx, decode w = .command (.rdstate .valid g) ↔ w.toNat = 0x05030000 + g.toNat) ∧
    (decode w = .command .mix ↔ w.toNat = 0x08000000) ∧
    (decode w = .command .expand16 ↔ w.toNat = 0x09000000) ∧
    (decode w = .command .expand32 ↔ w.toNat = 0x0A000000)

/-- 30_encoding.md section 4: the illegal words, and that such a word, presented, changes no slot and answers (ILLEGAL, 0).
Which cause the decoder names is the model's choice, so is naming the undefined opcode where both causes fit (log 14); that
the operand buses and what the host does next stand in State, and what a presented word does to those fields, is the
model's form (logs 3, 4). -/
def Obligations.IllegalWordsAreRefused : Prop :=
  (∀ w : CmdWord, opField w ∉ [0x01#8, 0x02#8, 0x03#8, 0x04#8, 0x05#8, 0x08#8, 0x09#8, 0x0A#8] →
    decode w = .illegal .undefinedOpcode) ∧
  (∀ w : CmdWord, opField w ∈ [0x01#8, 0x02#8, 0x03#8, 0x04#8, 0x05#8, 0x08#8, 0x09#8, 0x0A#8] →
    (zField w ≠ 0#6 ∨ (opField w ≠ 0x05#8 ∧ selField w ≠ 0#2) ∨
      (opField w ≠ 0x01#8 ∧ opField w ≠ 0x03#8 ∧ dField w ≠ 0#8) ∨
      (opField w ∉ [0x02#8, 0x03#8, 0x04#8, 0x05#8] ∧ gField w ≠ 0#8)) →
    decode w = .illegal .mustBeZero) ∧
  (∀ w : CmdWord, (∀ r : Row, w &&& rowMask r ≠ rowMatch r) ↔ ∃ why, decode w = .illegal why) ∧
  (∃ why, decode 0#32 = .illegal why) ∧
  ∀ (s : State) (w : CmdWord) (a b : Word) (rest : List HostEvent) (why : IllegalCause),
    s.host = .command w a b :: rest → decode w = .illegal why →
    step s = .next { s with cmdA := a, cmdB := b, host := rest,
                            pending := s.pending ++ [{ status := .illegal, data := 0#64 }] }

/-! ### The commands, each with its whole next state -/

/-- 40_mixer.md R46: MIX answers `mix` of its operands, in every state, and changes nothing else. -/
def Obligations.MixCommandResult : Prop :=
  (∀ s : State, exec .mix s =
    .next { s with pending := s.pending ++ [{ status := .ok, data := mix s.cmdA s.cmdB }] }) ∧
  encode .mix = 0x08000000#32 ∧
  (∀ w : CmdWord, opField w = 0x08#8 → w.extractLsb' 0 24 ≠ 0#24 → decode w = .illegal .mustBeZero) ∧
  mix 0#64 0#64 = 0#64 ∧ (∀ v : Word, mix v v = 0#64) ∧
  mix 0xFFFFFFFFFFFFFFFF#64 0#64 = 0x6E0C60E83AC07309#64 ∧ mix 1#64 0#64 = 0x9C1A051E07B9E10D#64

/-- 41_expander.md R52: EXPAND16 answers `expand16` of the low 16 bits of `cmd_a`, zero-extended, in every state. -/
def Obligations.Expand16CommandResult : Prop :=
  (∀ s : State, exec .expand16 s =
    .next { s with pending := s.pending ++
      [{ status := .ok, data := (expand16 (s.cmdA.extractLsb' 0 16)).setWidth 64 }] }) ∧
  encode .expand16 = 0x09000000#32 ∧
  (∀ w : CmdWord, opField w = 0x09#8 → w.extractLsb' 0 24 ≠ 0#24 → decode w = .illegal .mustBeZero) ∧
  (∀ a : Word, (zext64 (expand16 (low16 a))).extractLsb' 32 32 = 0#32) ∧
  zext64 (expand16 (low16 0#64)) = 0x00000000001FFF7F#64 ∧
  zext64 (expand16 (low16 0xFFFF#64)) = 0x000000001FFE800B#64 ∧
  zext64 (expand16 (low16 0xFFFFFFFFFFFF1234#64)) = 0x0000000094053E78#64 ∧
  zext64 (expand16 (low16 0x1234#64)) = 0x0000000094053E78#64

/-- 41_expander.md R53: EXPAND32 answers `expand32` of the low 32 bits of `cmd_a`, in every state. -/
def Obligations.Expand32CommandResult : Prop :=
  (∀ s : State, exec .expand32 s =
    .next { s with pending := s.pending ++ [{ status := .ok, data := expand32 (s.cmdA.extractLsb' 0 32) }] }) ∧
  encode .expand32 = 0x0A000000#32 ∧
  (∀ w : CmdWord, opField w = 0x0A#8 → w.extractLsb' 0 24 ≠ 0#24 → decode w = .illegal .mustBeZero) ∧
  expand32 (low32 0#64) = 0x001FFF7F001FFF7F#64 ∧
  expand32 (low32 0xFFFFFFFF#64) = 0x1FFE800B1FFE800B#64 ∧
  expand32 (low32 0xABCDEF015BE0CD19#64) = 0x4748A793EE8DF97C#64 ∧
  expand32 (low32 0x5BE0CD19#64) = 0x4748A793EE8DF97C#64

/-- 42_generator.md R59: CONSTRUCT fills slot `d`, valid or not before, or answers BADSLOT. -/
def Obligations.ConstructCommandResult : Prop :=
  (∀ (d : SlotIx) (s : State), d.toNat < s.slots.length →
    exec (.construct d) s =
      .next { s with
        slots := s.slots.set d.toNat { gen := construct s.cmdA s.cmdB, valid := true },
        pending := s.pending ++ [{ status := .ok, data := 0#64 }] }) ∧
  (∀ (d : SlotIx) (s : State), s.slots.length ≤ d.toNat →
    exec (.construct d) s = .next { s with pending := s.pending ++ [{ status := .badSlot, data := 0#64 }] }) ∧
  (∀ d : SlotIx, (encode (.construct d)).toNat = 0x01000000 + 256 * d.toNat) ∧
  (∀ w : CmdWord, opField w = 0x01#8 → (w.extractLsb' 16 8 ≠ 0#8 ∨ w.extractLsb' 0 8 ≠ 0#8) →
    decode w = .illegal .mustBeZero) ∧
  (∀ streamIndex : Word, (construct 0#64 streamIndex).ctr = 0#64) ∧
  (∀ seed : Word, (construct seed 1#64).inc = 0x5BE0CD19137E2179#64) ∧
  construct 0#64 0#64 =
    { x := 0x4748A793EE8DF97C#64, inc := 0x5BE0CD190D99A54D#64, ctr := 0x0000000000000000#64 }

/-- 42_generator.md R61: NEXT answers `mix` of the old counter and advances it, or answers BADSLOT or UNINIT with the
counter as it was. -/
def Obligations.NextCommandResult : Prop :=
  (∀ (g : SlotIx) (s : State) (sl : Slot), s.slots[g.toNat]? = some sl → sl.valid = true →
    exec (.next g) s =
      .next { s with
        slots := s.slots.set g.toNat
          { gen := { x := sl.gen.x, inc := sl.gen.inc, ctr := add64 sl.gen.ctr sl.gen.inc }, valid := true },
        pending := s.pending ++ [{ status := .ok, data := mix sl.gen.ctr sl.gen.x }] }) ∧
  (∀ (g : SlotIx) (s : State), s.slots.length ≤ g.toNat →
    exec (.next g) s = .next { s with pending := s.pending ++ [{ status := .badSlot, data := 0#64 }] }) ∧
  (∀ (g : SlotIx) (s : State) (sl : Slot), s.slots[g.toNat]? = some sl → sl.valid = false →
    exec (.next g) s = .next { s with pending := s.pending ++ [{ status := .uninit, data := 0#64 }] }) ∧
  (∀ g : SlotIx, (encode (.next g)).toNat = 0x02000000 + g.toNat) ∧
  (∀ w : CmdWord, opField w = 0x02#8 → w.extractLsb' 8 16 ≠ 0#16 → decode w = .illegal .mustBeZero) ∧
  mix 0xFFFFFFFFFFFFFFFF#64 0x4748A793EE8DF97C#64 = 0xE4D831BC9A5A2D47#64 ∧
  add64 0xFFFFFFFFFFFFFFFF#64 0x5BE0CD190D99A54D#64 = 0x5BE0CD190D99A54C#64 ∧
  mix 0xA41F32E6F2665AB3#64 0x4748A793EE8DF97C#64 = 0x47F7CF4CDDC01D97#64 ∧
  add64 0xA41F32E6F2665AB3#64 0x5BE0CD190D99A54D#64 = 0#64 ∧
  nextOut (construct 0#64 0#64) = 0x09508DAE631E69D3#64

/-- 42_generator.md R63: SPLIT advances the parent by two and then writes the child, also where they are one slot; or it
answers BADSLOT or UNINIT with the parent as it was. -/
def Obligations.SplitCommandResult : Prop :=
  (∀ (d g : SlotIx) (s : State) (sl : Slot),
    s.slots[g.toNat]? = some sl → sl.valid = true → d.toNat < s.slots.length →
    let a := mix sl.gen.ctr sl.gen.x
    let b := mix (add64 sl.gen.ctr sl.gen.inc) sl.gen.x
    exec (.split d g) s =
      .next { s with
        slots := (s.slots.set g.toNat
            { gen := { x := sl.gen.x, inc := sl.gen.inc, ctr := add64 sl.gen.ctr (mul64 2#64 sl.gen.inc) },
              valid := true }).set d.toNat { gen := construct a b, valid := true },
        pending := s.pending ++ [{ status := .ok, data := 0#64 }] }) ∧
  (∀ (d g : SlotIx) (s : State), (s.slots.length ≤ g.toNat ∨ s.slots.length ≤ d.toNat) →
    exec (.split d g) s = .next { s with pending := s.pending ++ [{ status := .badSlot, data := 0#64 }] }) ∧
  (∀ (d g : SlotIx) (s : State) (sl : Slot),
    s.slots[g.toNat]? = some sl → sl.valid = false → d.toNat < s.slots.length →
    exec (.split d g) s = .next { s with pending := s.pending ++ [{ status := .uninit, data := 0#64 }] }) ∧
  (∀ (g : SlotIx) (s : State) (sl : Slot), s.slots[g.toNat]? = some sl → sl.valid = true →
    ∃ t, exec (.split g g) s = .next t ∧ t.slots[g.toNat]? = some { gen := splitChild sl.gen, valid := true }) ∧
  (∀ d g : SlotIx, (encode (.split d g)).toNat = 0x03000000 + 256 * d.toNat + g.toNat) ∧
  (∀ w : CmdWord, opField w = 0x03#8 → w.extractLsb' 16 8 ≠ 0#8 → decode w = .illegal .mustBeZero) ∧
  splitChild (construct 0#64 0#64) = construct 0x09508DAE631E69D3#64 0x0D01FF4759780786#64 ∧
  splitChild (construct 0#64 0#64) =
    { x := 0x4748A7938E89195A#64, inc := 0x5BE0CD1A5E2C6169#64, ctr := 0x8B53E0F1B5A3624D#64 } ∧
  (splitParent (construct 0x0123456789ABCDEF#64 0xFEDCBA9876543210#64)).ctr = 0x2ED0ADD4819E6CEF#64 ∧
  splitChild (construct 0x0123456789ABCDEF#64 0xFEDCBA9876543210#64) =
    { x := 0x4748A793EE8DF97C#64, inc := 0x5BE0CD198E21D04D#64, ctr := 0xB5D655885E49F4A7#64 }

/-- 42_generator.md R65: SKIP moves the counter by `cmd_a * inc`, whatever `cmd_a` is, or answers BADSLOT or UNINIT. -/
def Obligations.SkipCommandResult : Prop :=
  (∀ (g : SlotIx) (s : State) (sl : Slot), s.slots[g.toNat]? = some sl → sl.valid = true →
    exec (.skip g) s =
      .next { s with
        slots := s.slots.set g.toNat
          { gen := { x := sl.gen.x, inc := sl.gen.inc, ctr := add64 sl.gen.ctr (mul64 s.cmdA sl.gen.inc) },
            valid := true },
        pending := s.pending ++ [{ status := .ok, data := 0#64 }] }) ∧
  (∀ (g : SlotIx) (s : State), s.slots.length ≤ g.toNat →
    exec (.skip g) s = .next { s with pending := s.pending ++ [{ status := .badSlot, data := 0#64 }] }) ∧
  (∀ (g : SlotIx) (s : State) (sl : Slot), s.slots[g.toNat]? = some sl → sl.valid = false →
    exec (.skip g) s = .next { s with pending := s.pending ++ [{ status := .uninit, data := 0#64 }] }) ∧
  (∀ g : SlotIx, (encode (.skip g)).toNat = 0x04000000 + g.toNat) ∧
  (∀ w : CmdWord, opField w = 0x04#8 → w.extractLsb' 8 16 ≠ 0#16 → decode w = .illegal .mustBeZero) ∧
  (∀ (g : SlotIx) (s : State) (sl : Slot), s.slots[g.toNat]? = some sl → sl.valid = true → s.cmdA = 0#64 →
    exec (.skip g) s = .next { s with pending := s.pending ++ [{ status := .ok, data := 0#64 }] }) ∧
  (∀ p : Gen, (skipGen p 0xFFFFFFFFFFFFFFFF#64).ctr = p.ctr - p.inc) ∧
  (∀ p : Gen, p.inc.toNat % 2 = 1 →
    (skipGen p 0x8000000000000000#64).ctr = p.ctr + 0x8000000000000000#64 ∧
    skipGen (skipGen p 0x8000000000000000#64) 0x8000000000000000#64 = p) ∧
  (skipGen (construct 42#64 7#64) 5#64).ctr = 0xCD4F419F7AA9E5D7#64

/-- 42_generator.md R66: RDSTATE answers the selected field and changes nothing; `valid` is read of any slot in range, the
other fields only of a valid one. -/
def Obligations.RdstateCommandResult : Prop :=
  (∀ (g : SlotIx) (s : State) (sl : Slot), s.slots[g.toNat]? = some sl →
    exec (.rdstate .valid g) s = .next { s with pending := s.pending ++
      [{ status := .ok, data := if sl.valid = true then 1#64 else 0#64 }] }) ∧
  (∀ (g : SlotIx) (s : State) (sl : Slot), s.slots[g.toNat]? = some sl → sl.valid = true →
    exec (.rdstate .x g) s = .next { s with pending := s.pending ++ [{ status := .ok, data := sl.gen.x }] } ∧
    exec (.rdstate .inc g) s = .next { s with pending := s.pending ++ [{ status := .ok, data := sl.gen.inc }] } ∧
    exec (.rdstate .ctr g) s = .next { s with pending := s.pending ++ [{ status := .ok, data := sl.gen.ctr }] }) ∧
  (∀ (sel : SlotField) (g : SlotIx) (s : State), s.slots.length ≤ g.toNat →
    exec (.rdstate sel g) s = .next { s with pending := s.pending ++ [{ status := .badSlot, data := 0#64 }] }) ∧
  (∀ (sel : SlotField) (g : SlotIx) (s : State) (sl : Slot),
    s.slots[g.toNat]? = some sl → sl.valid = false → sel ≠ .valid →
    exec (.rdstate sel g) s = .next { s with pending := s.pending ++ [{ status := .uninit, data := 0#64 }] }) ∧
  (∀ g : SlotIx,
    (encode (.rdstate .x g)).toNat = 0x05000000 + g.toNat ∧ (encode (.rdstate .inc g)).toNat = 0x05010000 + g.toNat ∧
    (encode (.rdstate .ctr g)).toNat = 0x05020000 + g.toNat ∧
    (encode (.rdstate .valid g)).toNat = 0x05030000 + g.toNat) ∧
  (∀ w : CmdWord, opField w = 0x05#8 → (w.extractLsb' 18 6 ≠ 0#6 ∨ w.extractLsb' 8 8 ≠ 0#8) →
    decode w = .illegal .mustBeZero) ∧
  (construct 0#64 0#64).inc = 0x5BE0CD190D99A54D#64

/-! ### What the commands leave unchanged -/

/-- 10_state.md R11, the frame of MIX, EXPAND16, EXPAND32 and RDSTATE: nothing but the response queue changes, and it grows
by one response at its end. -/
def Obligations.FrameOfCommandsThatWriteNoSlot : Prop :=
  ∀ (i : Instr) (s : State), (i = .mix ∨ i = .expand16 ∨ i = .expand32 ∨ ∃ sel g, i = .rdstate sel g) →
    ∃ r : Response, exec i s = .next { s with pending := s.pending ++ [r] }

/-- 10_state.md R11 to R14, the frame of NEXT and SKIP: no slot but `g` changes, of slot `g` only the counter, no slot
comes or goes, and at the ports the response queue alone grows by one. -/
def Obligations.FrameOfNextAndSkip : Prop :=
  ∀ (i : Instr) (g : SlotIx) (s t : State), (i = .next g ∨ i = .skip g) → exec i s = .next t →
    t.slots.length = s.slots.length ∧
    (∀ k : Nat, k ≠ g.toNat → t.slots[k]? = s.slots[k]?) ∧
    (∀ sl : Slot, s.slots[g.toNat]? = some sl → ∃ ctr : Word,
      t.slots[g.toNat]? = some { gen := { x := sl.gen.x, inc := sl.gen.inc, ctr := ctr }, valid := sl.valid }) ∧
    t.cmdA = s.cmdA ∧ t.cmdB = s.cmdB ∧ t.host = s.host ∧ t.taken = s.taken ∧ ∃ r, t.pending = s.pending ++ [r]

/-- 10_state.md R11 to R14, the frame of CONSTRUCT and SPLIT: no slot but the destination `d` changes, except the counter,
and the counter alone, of SPLIT's parent `g`; at the ports the response queue alone grows by one. -/
def Obligations.FrameOfConstructAndSplit : Prop :=
  (∀ (d : SlotIx) (s t : State), exec (.construct d) s = .next t →
    t.slots.length = s.slots.length ∧ (∀ k : Nat, k ≠ d.toNat → t.slots[k]? = s.slots[k]?) ∧
    t.cmdA = s.cmdA ∧ t.cmdB = s.cmdB ∧ t.host = s.host ∧ t.taken = s.taken ∧ ∃ r, t.pending = s.pending ++ [r]) ∧
  ∀ (d g : SlotIx) (s t : State), exec (.split d g) s = .next t →
    t.slots.length = s.slots.length ∧
    (∀ k : Nat, k ≠ d.toNat → k ≠ g.toNat → t.slots[k]? = s.slots[k]?) ∧
    (∀ sl : Slot, d ≠ g → s.slots[g.toNat]? = some sl → ∃ ctr : Word,
      t.slots[g.toNat]? = some { gen := { x := sl.gen.x, inc := sl.gen.inc, ctr := ctr }, valid := sl.valid }) ∧
    t.cmdA = s.cmdA ∧ t.cmdB = s.cmdB ∧ t.host = s.host ∧ t.taken = s.taken ∧ ∃ r, t.pending = s.pending ++ [r]

/-- 30_encoding.md R35: which bus carries which operand, and that the buses and the bits a command does not use have no
effect on state, status or data. -/
def Obligations.OperandsComeFromTheBuses : Prop :=
  (∀ (d : SlotIx) (s : State) (seed streamIndex : Word), d.toNat < s.slots.length →
    ∃ t, exec (.construct d) { s with cmdA := seed, cmdB := streamIndex } = .next t ∧
      t.slots[d.toNat]? = some { gen := construct seed streamIndex, valid := true }) ∧
  (∀ (g : SlotIx) (s : State) (sl : Slot) (distance b : Word),
    s.slots[g.toNat]? = some sl → sl.valid = true →
    ∃ t, exec (.skip g) { s with cmdA := distance, cmdB := b } = .next t ∧
      t.slots[g.toNat]? = some { gen := skipGen sl.gen distance, valid := true }) ∧
  (∀ (s : State) (a b : Word),
    (∃ t, exec .mix { s with cmdA := a, cmdB := b } = .next t ∧
      t.pending = s.pending ++ [{ status := .ok, data := mix a b }]) ∧
    (∃ t, exec .expand16 { s with cmdA := a, cmdB := b } = .next t ∧
      t.pending = s.pending ++ [{ status := .ok, data := zext64 (expand16 (BitVec.ofNat 16 a.toNat)) }]) ∧
    (∃ t, exec .expand32 { s with cmdA := a, cmdB := b } = .next t ∧
      t.pending = s.pending ++ [{ status := .ok, data := expand32 (BitVec.ofNat 32 a.toNat) }])) ∧
  (∀ (i : Instr) (s : State), ((∃ g, i = .next g) ∨ (∃ d g, i = .split d g) ∨ ∃ sel g, i = .rdstate sel g) →
    ∃ t, exec i s = .next t ∧ ∀ a b : Word,
      exec i { s with cmdA := a, cmdB := b } = .next { t with cmdA := a, cmdB := b }) ∧
  (∀ (i : Instr) (s : State), ((∃ g, i = .skip g) ∨ i = .expand16 ∨ i = .expand32) →
    ∃ t, exec i s = .next t ∧ ∀ b : Word, exec i { s with cmdB := b } = .next { t with cmdB := b })

/-! ### Checks and responses -/

/-- 60_exceptions.md R75: a command that passes the checks completes with status OK, whatever its operands. -/
def Obligations.CheckedCommandsComplete : Prop :=
  ∀ (i : Instr) (s : State), (∀ ix ∈ i.indices, ix.toNat < s.slots.length) →
    (∀ g, i.source? = some g → s.isValid g = true) →
    ∃ t data, exec i s = .next t ∧ t.pending = s.pending ++ [{ status := .ok, data := data }]

/-- 60_exceptions.md R76: exactly when a command is answered ILLEGAL, BADSLOT or UNINIT. -/
def Obligations.RefusedInExactlyThreeCases : Prop :=
  (∀ (s : State) (w : CmdWord) (a b : Word) (rest : List HostEvent), s.host = .command w a b :: rest →
    ∃ t r, step s = .next t ∧ t.pending = s.pending ++ [r] ∧
      (r.status = .illegal ↔ ∃ why, decode w = .illegal why)) ∧
  (∀ (i : Instr) (s : State), ∃ t r, exec i s = .next t ∧ t.pending = s.pending ++ [r] ∧ r.status ≠ .illegal ∧
    (r.status = .badSlot ↔ ∃ ix ∈ i.indices, s.slots.length ≤ ix.toNat) ∧
    (r.status = .uninit ↔ (∀ ix ∈ i.indices, ix.toNat < s.slots.length) ∧
      ∃ g sl, i.source? = some g ∧ s.slots[g.toNat]? = some sl ∧ sl.valid = false) ∧
    (s.slots.length = 256 → r.status ≠ .badSlot)) ∧
  ∀ (s : State) (g : SlotIx), ∃ t r, exec (.rdstate .valid g) s = .next t ∧ t.pending = s.pending ++ [r] ∧
    r.status ≠ .uninit

/-- 60_exceptions.md R77: decode first, then range, then validity, one status; with the rule's examples. -/
def Obligations.ChecksInOrder : Prop :=
  (∀ (s : State) (w : CmdWord) (a b : Word) (rest : List HostEvent), s.host = .command w a b :: rest →
    ∃ t data, step s = .next t ∧ t.pending = s.pending ++ [{ status := s.dueForWord w, data := data }]) ∧
  (∀ (s : State) (w : CmdWord) (why : IllegalCause), decode w = .illegal why → s.dueForWord w = .illegal) ∧
  (∀ (s : State) (w : CmdWord) (i : Instr), decode w = .command i →
    ((∃ ix ∈ i.indices, s.slots.length ≤ ix.toNat) → s.dueForWord w = .badSlot) ∧
    ((∀ ix ∈ i.indices, ix.toNat < s.slots.length) → (∃ g, i.source? = some g ∧ s.isValid g = false) →
      s.dueForWord w = .uninit) ∧
    ((∀ ix ∈ i.indices, ix.toNat < s.slots.length) → (∀ g, i.source? = some g → s.isValid g = true) →
      s.dueForWord w = .ok)) ∧
  (State.resetWith 2).dueForWord 0x06000005#32 = .illegal ∧
  (State.resetWith 2).dueStatus (.split 9#8 0#8) = .badSlot ∧ (State.resetWith 2).dueStatus (.next 1#8) = .uninit

/-- 60_exceptions.md R78: a refused command writes no state and answers with data 0, and no later command is affected by
it: what waits in the response queue influences nothing. -/
def Obligations.RefusalsLeaveNoTrace : Prop :=
  (∀ (i : Instr) (s : State), s.dueStatus i ≠ .ok →
    exec i s = .next { s with pending := s.pending ++ [{ status := s.dueStatus i, data := 0#64 }] }) ∧
  (∀ (s : State) (w : CmdWord) (a b : Word) (rest : List HostEvent) (why : IllegalCause),
    s.host = .command w a b :: rest → decode w = .illegal why →
    ∃ t, step s = .next t ∧ t.slots = s.slots ∧ t.taken = s.taken ∧ t.host = rest ∧
      t.pending = s.pending ++ [{ status := .illegal, data := 0#64 }]) ∧
  ∀ (i : Instr) (s : State), ∃ t r, exec i s = .next t ∧ t.pending = s.pending ++ [r] ∧
    ∀ q : List Response, exec i { s with pending := q } = .next { t with pending := q ++ [r] }

/-- 30_encoding.md R39: the four status codes; one response a command; data 0 unless the status is OK and the command has
a result. -/
def Obligations.ResponseFormat : Prop :=
  statusCode .ok = 0#2 ∧ statusCode .illegal = 1#2 ∧ statusCode .badSlot = 2#2 ∧ statusCode .uninit = 3#2 ∧
  (∀ (s : State) (w : CmdWord) (a b : Word) (rest : List HostEvent), s.host = .command w a b :: rest →
    ∃ t r, step s = .next t ∧ t.pending = s.pending ++ [r] ∧
      ((r.status ≠ .ok ∨ ∃ i, decode w = .command i ∧ i.hasResult = false) → r.data = 0#64))

/-- 30_encoding.md R42: `SKIP Gg, -n` is the distance `2^64 - n`; it rewinds by `n` steps; the rule's example. -/
def Obligations.NegativeSkipRewinds : Prop :=
  (∀ n : Nat, n < 2 ^ 64 → BitVec.ofInt 64 (-(n : Int)) = BitVec.ofNat 64 (2 ^ 64 - n)) ∧
  (∀ (p : Gen) (n : Nat), n < 2 ^ 64 →
    skipGen (Nat.iterate nextGen n p) (BitVec.ofNat 64 (2 ^ 64 - n)) = p ∧
    Nat.iterate nextGen n (skipGen p (BitVec.ofNat 64 (2 ^ 64 - n))) = p) ∧
  encode (.skip 1#8) = 0x04000001#32 ∧ BitVec.ofInt 64 (-6) = 0xFFFFFFFFFFFFFFFA#64

/-! ### The machine -/

/-- A step runs the decoded command: with a legal command presented, `step` is `exec` of it on the state in which the
operand buses carry that command's operands and the rest of what the host does is left (30_encoding.md R30, R43). Holding
the buses and the host's doings in State is the model's form (logs 3, 4). -/
def Obligations.StepRunsTheDecodedCommand : Prop :=
  ∀ (s : State) (w : CmdWord) (a b : Word) (rest : List HostEvent) (i : Instr),
    s.host = .command w a b :: rest → decode w = .command i →
    step s = exec i { s with cmdA := a, cmdB := b, host := rest }

/-- A row's word placed with `withFetchWord` is the one the next step runs, its operand buses 0 (log 4). -/
def Obligations.PlacedWordRuns : Prop :=
  ∀ (s : State) (w : Nat) (i : Instr), decodeTableWord 32 w = some i →
    step (s.withFetchWord 32 w) = exec i { s with cmdA := 0#64, cmdB := 0#64 }

/-- 70_reset_and_hazards.md R94 and 60_exceptions.md R75: the block never stops by itself; every step has a next state. -/
def Obligations.MachineNeverStops : Prop :=
  ∀ s : State, ∃ t, step s = .next t ∧ t.slots.length = s.slots.length

/-- 60_exceptions.md R84 and 70_reset_and_hazards.md R90: with nothing presented the block keeps all its state; taking a
response moves the oldest one to the host and changes no slot. The queues are the model's form (logs 4, 5). -/
def Obligations.IdleAndTakeKeepTheSlots : Prop :=
  (∀ s : State, s.host = [] → step s = .next s) ∧
  (∀ (s : State) (rest : List HostEvent) (r : Response) (q : List Response),
    s.host = .takeResponse :: rest → s.pending = r :: q →
    step s = .next { s with host := rest, pending := q, taken := s.taken ++ [r] }) ∧
  (∀ (s : State) (rest : List HostEvent), s.host = .takeResponse :: rest → s.pending = [] →
    step s = .next { s with host := rest })

/-- 70_reset_and_hazards.md R90, R94: without a reset the responses, taken and pending together, only ever grow at the end,
by exactly one for each command; nothing is dropped or reordered (logs 4, 5). -/
def Obligations.ResponsesInCommandOrder : Prop :=
  ∀ (s : State) (e : HostEvent) (rest : List HostEvent), s.host = e :: rest → e ≠ .reset →
    ∃ t, step s = .next t ∧ t.host = rest ∧
      (e.isCommand = false → t.taken ++ t.pending = s.taken ++ s.pending) ∧
      (e.isCommand = true → t.taken = s.taken ∧ ∃ r, t.pending = s.pending ++ [r])

/-- 20_memory.md R25: commands execute in issue order, each seeing what the one before left; (a) a NEXT after a CONSTRUCT,
(b) two NEXTs, (c) a command changes no slot but the one it is on, except SPLIT's destination. That what the host presents
is a list in State is the model's form (log 4). -/
def Obligations.SequentialExecution : Prop :=
  (∀ (s : State) (w : CmdWord) (a b : Word) (rest : List HostEvent), s.host = .command w a b :: rest →
    ∃ t r, step s = .next t ∧ t.host = rest ∧ t.pending = s.pending ++ [r]) ∧
  (∀ (s : State) (ix : SlotIx) (seed streamIndex a b : Word) (rest : List HostEvent), ix.toNat < s.slots.length →
    s.host = .command (encode (.construct ix)) seed streamIndex :: .command (encode (.next ix)) a b :: rest →
    ∃ t u, step s = .next t ∧ step t = .next u ∧ u.host = rest ∧
      u.pending = s.pending ++ [{ status := .ok, data := 0#64 },
        { status := .ok, data := mix (construct seed streamIndex).ctr (construct seed streamIndex).x }]) ∧
  (∀ (s : State) (ix : SlotIx) (sl : Slot) (a b c d : Word) (rest : List HostEvent),
    s.slots[ix.toNat]? = some sl → sl.valid = true →
    s.host = .command (encode (.next ix)) a b :: .command (encode (.next ix)) c d :: rest →
    ∃ t u, step s = .next t ∧ step t = .next u ∧ u.host = rest ∧
      u.pending = s.pending ++ [{ status := .ok, data := mix sl.gen.ctr sl.gen.x },
        { status := .ok, data := mix (add64 sl.gen.ctr sl.gen.inc) sl.gen.x }]) ∧
  ∀ (i : Instr) (s : State) (j : Nat), (∀ ix ∈ i.indices, ix.toNat ≠ j) →
    ∃ t, exec i s = .next t ∧ t.slots[j]? = s.slots[j]?

/-- 70_reset_and_hazards.md R91: no distance is needed between a SPLIT and the first use of its child or its parent, nor
between a SKIP and a NEXT: the very next command sees the complete effect. -/
def Obligations.NoHazards : Prop :=
  (∀ (s : State) (d g : SlotIx) (sl : Slot) (a b a' b' : Word) (rest : List HostEvent),
    s.slots[g.toNat]? = some sl → sl.valid = true → d.toNat < s.slots.length →
    s.host = .command (encode (.split d g)) a b :: .command (encode (.next d)) a' b' :: rest →
    ∃ t u, step s = .next t ∧ step t = .next u ∧
      u.pending = s.pending ++ [{ status := .ok, data := 0#64 },
        { status := .ok, data := nextOut (splitChild sl.gen) }]) ∧
  (∀ (s : State) (d g : SlotIx) (sl : Slot) (a b a' b' : Word) (rest : List HostEvent),
    s.slots[g.toNat]? = some sl → sl.valid = true → d.toNat < s.slots.length → d ≠ g →
    s.host = .command (encode (.split d g)) a b :: .command (encode (.next g)) a' b' :: rest →
    ∃ t u, step s = .next t ∧ step t = .next u ∧
      u.pending = s.pending ++ [{ status := .ok, data := 0#64 },
        { status := .ok, data := nextOut (nextGen (nextGen sl.gen)) }]) ∧
  ∀ (s : State) (g : SlotIx) (sl : Slot) (distance b a' b' : Word) (rest : List HostEvent),
    s.slots[g.toNat]? = some sl → sl.valid = true →
    s.host = .command (encode (.skip g)) distance b :: .command (encode (.next g)) a' b' :: rest →
    ∃ t u, step s = .next t ∧ step t = .next u ∧
      u.pending = s.pending ++ [{ status := .ok, data := 0#64 },
        { status := .ok, data := nextOut (skipGen sl.gen distance) }]

/-- 10_state.md R19, 70_reset_and_hazards.md R87: after reset, whatever `NGEN`, every slot is not valid and no response is
pending. -/
def Obligations.ResetStateHasNoGenerator : Prop :=
  (∀ n : Nat, (State.resetWith n).slots.length = n ∧ (∀ sl ∈ (State.resetWith n).slots, sl.valid = false) ∧
    (State.resetWith n).pending = []) ∧
  ∃ n : Nat, Config.LegalNgen n ∧ State.reset = State.resetWith n

/-- 70_reset_and_hazards.md R87, R88: at a reset every slot becomes not valid and the responses not taken are never given;
`NGEN` stays, and what the host has taken stays taken (log 6). -/
def Obligations.ResetEventClearsEverySlot : Prop :=
  ∀ (s : State) (rest : List HostEvent), s.host = .reset :: rest →
    ∃ t, step s = .next t ∧ t.slots.length = s.slots.length ∧ (∀ sl ∈ t.slots, sl.valid = false) ∧
      t.pending = [] ∧ t.host = rest ∧ t.taken = s.taken

/-- 70_reset_and_hazards.md R89: with no slot valid, a command answers OK exactly if it is MIX, EXPAND16, EXPAND32, or
RDSTATE of `valid` or CONSTRUCT on a slot in range. -/
def Obligations.OnlyTheseAnswerOkAfterReset : Prop :=
  ∀ (s : State) (i : Instr), (∀ sl ∈ s.slots, sl.valid = false) →
    ∃ t r, exec i s = .next t ∧ t.pending = s.pending ++ [r] ∧
      (r.status = .ok ↔ i = .mix ∨ i = .expand16 ∨ i = .expand32 ∨
        (∃ g : SlotIx, g.toNat < s.slots.length ∧ i = .rdstate .valid g) ∨
        ∃ d : SlotIx, d.toNat < s.slots.length ∧ i = .construct d)

/-- 10_state.md R16: `valid` is set by a CONSTRUCT or SPLIT that completes with that destination, no command clears it or
sets it otherwise, and only a reset clears it; RDSTATE reads it. -/
def Obligations.ValidBitLifecycle : Prop :=
  (∀ (i : Instr) (s : State) (ix : SlotIx), ∃ t, exec i s = .next t ∧
    (s.isValid ix = true → t.isValid ix = true) ∧
    (i.dest? = some ix → s.dueStatus i = .ok → t.isValid ix = true) ∧
    (s.isValid ix = false → t.isValid ix = true → i.dest? = some ix ∧ s.dueStatus i = .ok)) ∧
  (∀ (s : State) (ix : SlotIx), s.isValid ix = true → (∀ rest, s.host ≠ .reset :: rest) →
    ∃ t, step s = .next t ∧ t.isValid ix = true) ∧
  (∀ (s : State) (ix : SlotIx) (rest : List HostEvent), s.host = .reset :: rest →
    ∃ t, step s = .next t ∧ t.isValid ix = false) ∧
  ∀ (s : State) (g : SlotIx), g.toNat < s.slots.length →
    ∃ t, exec (.rdstate .valid g) s = .next t ∧
      t.pending = s.pending ++ [{ status := .ok, data := if s.isValid g = true then 1#64 else 0#64 }]

/-- 10_state.md R15: over any run of commands that begins no generator in slot `ix`, `x` and `inc` of a valid slot are
constant and its counter has moved by `inc` times the sum of its advances and distances. -/
def Obligations.CounterAfterAnyRun : Prop :=
  ∀ (evs : List HostEvent) (s : State) (ix : SlotIx) (p : Gen),
    s.host = evs → (∀ e ∈ evs, e ≠ .reset ∧ e.beginsIn ix = false) →
    s.slots[ix.toNat]? = some { gen := p, valid := true } →
    ∃ t : State, Sys2Proof.core.run evs.length s = .next t ∧
      t.slots[ix.toNat]? = some
        { gen := { p with ctr := add64 p.ctr (mul64 (totalAdvance s.slots.length ix evs) p.inc) }, valid := true }

/-- 42_generator.md R70: two slots written by CONSTRUCT with equal operands are equal, and equal slots, whatever their
indices and whatever block they are in, give equal responses and stay equal under equal sequences of NEXT, SKIP and
SPLIT-as-source. -/
def Obligations.EqualGeneratorsBehaveEqually : Prop :=
  (∀ (s t : State) (i j : SlotIx), i.toNat < s.slots.length → j.toNat < t.slots.length →
    s.cmdA = t.cmdA → s.cmdB = t.cmdB →
    ∃ s' t', exec (.construct i) s = .next s' ∧ exec (.construct j) t = .next t' ∧
      s'.slots[i.toNat]? = t'.slots[j.toNat]?) ∧
  ∀ (ops : List SlotOp) (s t : State) (i j : SlotIx) (sl : Slot),
    s.slots[i.toNat]? = some sl → t.slots[j.toNat]? = some sl →
    (∀ d, SlotOp.splitTo d ∈ ops → d ≠ i ∧ d ≠ j ∧ d.toNat < s.slots.length ∧ d.toNat < t.slots.length) →
    s.host = ops.map (SlotOp.event i) → t.host = ops.map (SlotOp.event j) →
    ∃ s' t' : State, Sys2Proof.core.run ops.length s = .next s' ∧ Sys2Proof.core.run ops.length t = .next t' ∧
      s'.slots[i.toNat]? = t'.slots[j.toNat]? ∧
      ∃ rs : List Response, rs.length = ops.length ∧ s'.pending = s.pending ++ rs ∧ t'.pending = t.pending ++ rs

/-- 10_state.md R19 and 93_implementation_defined.md U2: nothing the host can see depends on the words of a slot that is
not valid: two states that differ only in those go on to two such states, with equal responses. So the zeros that
`State.reset` holds there (log 2) are never observed. -/
def Obligations.UnwrittenWordsAreNeverObserved : Prop :=
  ∀ s t : State, s.SameSeen t → ∃ s' t', step s = .next s' ∧ step t = .next t' ∧ s'.SameSeen t'

/-- 10_state.md R11, R16 and 42_generator.md R67: every step keeps the invariant that `1 <= NGEN <= 256` and that every
valid slot holds a constructed generator (`inc` odd with its fixed bits, `x` the Expander's word for `inc[63:32]`). -/
def Obligations.EveryStepKeepsTheInvariant : Prop :=
  ∀ s t : State, s.Inv → step s = .next t → t.Inv

/-- The invariant holds after reset, for every legal `NGEN`. -/
def Obligations.InvariantHoldsAtReset : Prop :=
  (∀ n : Nat, Config.LegalNgen n → (State.resetWith n).Inv) ∧ State.reset.Inv
end

