-- ==== Sys2Proof/Laws/Bits.lean ====
section
/-! SUPPORT. What the primitives of Machine/Bits.lean do to a word's bits and to its number; a bounded quantifier over bit
positions as a conjunction. -/

namespace Sys2Proof.Machine

/-! ### Bits -/

theorem getLsbD_shr {n : Nat} (v : BitVec n) (k j : Nat) : (shr v k).getLsbD j = v.getLsbD (k + j) := by
  simp [shr]

theorem getLsbD_shl {n : Nat} (v : BitVec n) (k j : Nat) :
    (shl v k).getLsbD j = (decide (j < n) && !decide (j < k) && v.getLsbD (j - k)) := by
  simp [shl]

theorem getLsbD_zext64 {n : Nat} (v : BitVec n) (j : Nat) :
    (zext64 v).getLsbD j = (decide (j < 64) && v.getLsbD j) := by
  simp [zext64]

theorem getLsbD_high32 (v : Word) (j : Nat) : (high32 v).getLsbD j = (decide (j < 32) && v.getLsbD (32 + j)) := by
  simp [high32]

theorem getLsbD_low32 (v : Word) (j : Nat) : (low32 v).getLsbD j = (decide (j < 32) && v.getLsbD j) := by
  simp [low32]

theorem getLsbD_low16 (v : Word) (j : Nat) : (low16 v).getLsbD j = (decide (j < 16) && v.getLsbD j) := by
  simp [low16]

/-! ### Linearity over exclusive or -/

theorem shr_xor {n : Nat} (a b : BitVec n) (k : Nat) : shr (a ^^^ b) k = shr a k ^^^ shr b k := by
  apply BitVec.eq_of_getLsbD_eq
  intro j _
  simp [getLsbD_shr]

theorem shl_xor {n : Nat} (a b : BitVec n) (k : Nat) : shl (a ^^^ b) k = shl a k ^^^ shl b k := by
  apply BitVec.eq_of_getLsbD_eq
  intro j _
  simp only [getLsbD_shl, BitVec.getLsbD_xor]
  cases decide (j < n) <;> cases decide (j < k) <;> simp

/-! ### Numbers -/

theorem toNat_add64 (a b : Word) : (add64 a b).toNat = (a.toNat + b.toNat) % 2 ^ 64 := by simp [add64]

theorem toNat_mul64 (a b : Word) : (mul64 a b).toNat = (a.toNat * b.toNat) % 2 ^ 64 := by simp [mul64]

/-! ### Bounded quantifiers over bit positions -/

theorem forall_lt_two {p : Nat → Prop} : (∀ k, k < 2 → p k) ↔ p 0 ∧ p 1 := by
  constructor
  · intro h
    exact ⟨h 0 (by decide), h 1 (by decide)⟩
  · rintro ⟨h0, h1⟩ k hk
    match k, hk with
    | 0, _ => exact h0
    | 1, _ => exact h1

theorem forall_lt_six {p : Nat → Prop} : (∀ k, k < 6 → p k) ↔ p 0 ∧ p 1 ∧ p 2 ∧ p 3 ∧ p 4 ∧ p 5 := by
  constructor
  · intro h
    refine ⟨?_, ?_, ?_, ?_, ?_, ?_⟩ <;> exact h _ (by decide)
  · rintro ⟨_, _, _, _, _, _⟩ k hk
    match k, hk with
    | 0, _ | 1, _ | 2, _ | 3, _ | 4, _ | 5, _ => assumption

theorem forall_lt_eight {p : Nat → Prop} :
    (∀ k, k < 8 → p k) ↔ p 0 ∧ p 1 ∧ p 2 ∧ p 3 ∧ p 4 ∧ p 5 ∧ p 6 ∧ p 7 := by
  constructor
  · intro h
    refine ⟨?_, ?_, ?_, ?_, ?_, ?_, ?_, ?_⟩ <;> exact h _ (by decide)
  · rintro ⟨_, _, _, _, _, _, _, _⟩ k hk
    match k, hk with
    | 0, _ | 1, _ | 2, _ | 3, _ | 4, _ | 5, _ | 6, _ | 7, _ => assumption

/-- The bit positions of a 32-bit word, grouped as the fields of a command word. -/
theorem forall_lt_thirtytwo {p : Nat → Prop} : (∀ k, k < 32 → p k) ↔
    (∀ k, k < 8 → p k) ∧ (∀ k, k < 8 → p (8 + k)) ∧ (∀ k, k < 2 → p (16 + k)) ∧ (∀ k, k < 6 → p (18 + k)) ∧
      (∀ k, k < 8 → p (24 + k)) := by
  constructor
  · intro h
    exact ⟨fun k hk => h k (by omega), fun k hk => h _ (by omega), fun k hk => h _ (by omega),
      fun k hk => h _ (by omega), fun k hk => h _ (by omega)⟩
  · rintro ⟨h0, h1, h2, h3, h4⟩ k hk
    by_cases c0 : k < 8
    · exact h0 k c0
    by_cases c1 : k < 16
    · have := h1 (k - 8) (by omega)
      rwa [show 8 + (k - 8) = k by omega] at this
    by_cases c2 : k < 18
    · have := h2 (k - 16) (by omega)
      rwa [show 16 + (k - 16) = k by omega] at this
    by_cases c3 : k < 24
    · have := h3 (k - 18) (by omega)
      rwa [show 18 + (k - 18) = k by omega] at this
    · have := h4 (k - 24) (by omega)
      rwa [show 24 + (k - 24) = k by omega] at this

end Sys2Proof.Machine
end

