-- ==== Sys2Proof/Laws/Decode.lean ====
section
/-! SUPPORT. The fields of a packed command word, a command word from its fields, and when a row of the opcode map fits,
in terms of the fields. -/

namespace Sys2Proof

open Sys2Proof.Machine

/-! ### The fields of a packed word -/

theorem getLsbD_packCmd (op : BitVec 8) (sel : BitVec 2) (d g : SlotIx) (k : Nat) (hk : k < 32) :
    (packCmd op sel d g).getLsbD k =
      if k < 8 then g.getLsbD k
      else if k < 16 then d.getLsbD (k - 8)
      else if k < 18 then sel.getLsbD (k - 16)
      else if k < 24 then false
      else op.getLsbD (k - 24) := by
  unfold packCmd
  by_cases c0 : k < 8
  · simp [hk, c0, show k < 16 by omega, show k < 24 by omega]
  by_cases c1 : k < 16
  · have hg := BitVec.getLsbD_of_ge g k (by omega)
    simp [hk, c0, c1, hg, show k < 24 by omega]
  by_cases c2 : k < 18
  · have hg := BitVec.getLsbD_of_ge g k (by omega)
    have hd := BitVec.getLsbD_of_ge d (k - 8) (by omega)
    simp [hk, c0, c1, c2, hg, hd, show k < 24 by omega]
  by_cases c3 : k < 24
  · have hg := BitVec.getLsbD_of_ge g k (by omega)
    have hd := BitVec.getLsbD_of_ge d (k - 8) (by omega)
    have hs := BitVec.getLsbD_of_ge sel (k - 16) (by omega)
    simp [hk, c0, c1, c2, c3, hg, hd, hs]
  · have hg := BitVec.getLsbD_of_ge g k (by omega)
    have hd := BitVec.getLsbD_of_ge d (k - 8) (by omega)
    have hs := BitVec.getLsbD_of_ge sel (k - 16) (by omega)
    simp [hk, c0, c1, c2, c3, hg, hd, hs]

@[simp] theorem opField_packCmd (op : BitVec 8) (sel : BitVec 2) (d g : SlotIx) :
    opField (packCmd op sel d g) = op := by
  apply BitVec.eq_of_getLsbD_eq
  intro k hk
  simp only [opField, BitVec.getLsbD_extractLsb', hk, decide_true, Bool.true_and]
  rw [getLsbD_packCmd _ _ _ _ _ (by omega), if_neg (by omega), if_neg (by omega), if_neg (by omega),
    if_neg (by omega), show 24 + k - 24 = k by omega]

@[simp] theorem zField_packCmd (op : BitVec 8) (sel : BitVec 2) (d g : SlotIx) :
    zField (packCmd op sel d g) = 0#6 := by
  apply BitVec.eq_of_getLsbD_eq
  intro k hk
  simp only [zField, BitVec.getLsbD_extractLsb', hk, decide_true, Bool.true_and]
  rw [getLsbD_packCmd _ _ _ _ _ (by omega), if_neg (by omega), if_neg (by omega), if_neg (by omega),
    if_pos (by omega)]
  simp

@[simp] theorem selField_packCmd (op : BitVec 8) (sel : BitVec 2) (d g : SlotIx) :
    selField (packCmd op sel d g) = sel := by
  apply BitVec.eq_of_getLsbD_eq
  intro k hk
  simp only [selField, BitVec.getLsbD_extractLsb', hk, decide_true, Bool.true_and]
  rw [getLsbD_packCmd _ _ _ _ _ (by omega), if_neg (by omega), if_neg (by omega), if_pos (by omega),
    show 16 + k - 16 = k by omega]

@[simp] theorem dField_packCmd (op : BitVec 8) (sel : BitVec 2) (d g : SlotIx) :
    dField (packCmd op sel d g) = d := by
  apply BitVec.eq_of_getLsbD_eq
  intro k hk
  simp only [dField, BitVec.getLsbD_extractLsb', hk, decide_true, Bool.true_and]
  rw [getLsbD_packCmd _ _ _ _ _ (by omega), if_neg (by omega), if_pos (by omega), show 8 + k - 8 = k by omega]

@[simp] theorem gField_packCmd (op : BitVec 8) (sel : BitVec 2) (d g : SlotIx) :
    gField (packCmd op sel d g) = g := by
  apply BitVec.eq_of_getLsbD_eq
  intro k hk
  simp only [gField, BitVec.getLsbD_extractLsb', hk, decide_true, Bool.true_and]
  rw [getLsbD_packCmd _ _ _ _ _ (by omega), if_pos (by omega), show 0 + k = k by omega]

/-- Two command words with the same fields are the same word. -/
theorem cmdWord_ext {v w : CmdWord} (ho : opField v = opField w) (hz : zField v = zField w)
    (hs : selField v = selField w) (hd : dField v = dField w) (hg : gField v = gField w) : v = w := by
  apply BitVec.eq_of_getLsbD_eq
  refine forall_lt_thirtytwo.mpr ⟨?_, ?_, ?_, ?_, ?_⟩ <;> intro k hk
  · simpa [gField, hk] using congrArg (BitVec.getLsbD · k) hg
  · simpa [dField, hk] using congrArg (BitVec.getLsbD · k) hd
  · simpa [selField, hk] using congrArg (BitVec.getLsbD · k) hs
  · simpa [zField, hk] using congrArg (BitVec.getLsbD · k) hz
  · simpa [opField, hk] using congrArg (BitVec.getLsbD · k) ho

/-- A word whose `z` is zero is packed from its fields. -/
theorem packCmd_of_fields {w : CmdWord} (hz : zField w = 0#6) :
    packCmd (opField w) (selField w) (dField w) (gField w) = w :=
  cmdWord_ext (by simp) (by simp [hz]) (by simp) (by simp) (by simp)

/-- A packed word as a number. -/
theorem toNat_packCmd (op : BitVec 8) (sel : BitVec 2) (d g : SlotIx) :
    (packCmd op sel d g).toNat = 2 ^ 24 * op.toNat + 2 ^ 16 * sel.toNat + 2 ^ 8 * d.toNat + g.toNat := by
  have h : ∀ n : Nat, n < 2 ^ 32 →
      n = 2 ^ 24 * (n >>> 24 % 2 ^ 8) + 2 ^ 18 * (n >>> 18 % 2 ^ 6) + 2 ^ 16 * (n >>> 16 % 2 ^ 2) +
        2 ^ 8 * (n >>> 8 % 2 ^ 8) + n >>> 0 % 2 ^ 8 := by
    intro n hn
    simp only [Nat.shiftRight_eq_div_pow]
    omega
  have e := h (packCmd op sel d g).toNat (packCmd op sel d g).isLt
  have ho := congrArg BitVec.toNat (opField_packCmd op sel d g)
  have hz := congrArg BitVec.toNat (zField_packCmd op sel d g)
  have hs := congrArg BitVec.toNat (selField_packCmd op sel d g)
  have hd := congrArg BitVec.toNat (dField_packCmd op sel d g)
  have hg := congrArg BitVec.toNat (gField_packCmd op sel d g)
  simp only [opField, zField, selField, dField, gField, BitVec.extractLsb'_toNat] at ho hz hs hd hg
  rw [ho, hz, hs, hd, hg] at e
  simpa using e

/-! ### The selectors of RDSTATE (30_encoding.md R37) -/

@[simp] theorem fieldOfSel_selOfField (f : SlotField) : fieldOfSel (selOfField f) = f := by cases f <;> decide

@[simp] theorem selOfField_fieldOfSel (sel : BitVec 2) : selOfField (fieldOfSel sel) = sel := by
  revert sel; decide

/-! ### When a row fits -/

theorem and_eq_iff (w mask pat : CmdWord) :
    w &&& mask = pat ↔ ∀ k, k < 32 → (w.getLsbD k && mask.getLsbD k) = pat.getLsbD k := by
  constructor
  · rintro rfl k _
    simp
  · intro h
    apply BitVec.eq_of_getLsbD_eq
    intro k hk
    simpa using h k hk

/-- A word under a mask is a pattern exactly when each field is. -/
theorem and_eq_iff_fields (w mask pat : CmdWord) :
    w &&& mask = pat ↔
      opField w &&& opField mask = opField pat ∧ zField w &&& zField mask = zField pat ∧
      selField w &&& selField mask = selField pat ∧ dField w &&& dField mask = dField pat ∧
      gField w &&& gField mask = gField pat := by
  constructor
  · rintro rfl
    refine ⟨?_, ?_, ?_, ?_, ?_⟩ <;>
      simp only [opField, zField, selField, dField, gField, BitVec.extractLsb'_and]
  · rintro ⟨ho, hz, hs, hd, hg⟩
    simp only [opField, zField, selField, dField, gField, ← BitVec.extractLsb'_and] at ho hz hs hd hg
    exact cmdWord_ext ho hz hs hd hg

theorem rowFits_iff (w : CmdWord) (r : Row) : rowFits w r = true ↔ w &&& rowMask r = rowMatch r := by
  simp [rowFits]

theorem and_ones8 (v : BitVec 8) : v &&& 0xFF#8 = v := by revert v; decide

theorem and_ones6 (v : BitVec 6) : v &&& 0x3F#6 = v := by revert v; decide

theorem and_ones2 (v : BitVec 2) : v &&& 3#2 = v := by revert v; decide

theorem rowFits_construct (w : CmdWord) : rowFits w .construct = true ↔
    opField w = 0x01#8 ∧ zField w = 0#6 ∧ selField w = 0#2 ∧ gField w = 0#8 := by
  rw [rowFits_iff, and_eq_iff_fields]
  rw [show opField (rowMask .construct) = 0xFF#8 by decide, show zField (rowMask .construct) = 0x3F#6 by decide,
    show selField (rowMask .construct) = 3#2 by decide, show dField (rowMask .construct) = 0x00#8 by decide,
    show gField (rowMask .construct) = 0xFF#8 by decide, show opField (rowMatch .construct) = 0x01#8 by decide,
    show zField (rowMatch .construct) = 0#6 by decide, show selField (rowMatch .construct) = 0#2 by decide,
    show dField (rowMatch .construct) = 0#8 by decide, show gField (rowMatch .construct) = 0#8 by decide]
  simp [and_ones8, and_ones6, and_ones2]

theorem rowFits_next (w : CmdWord) : rowFits w .next = true ↔
    opField w = 0x02#8 ∧ zField w = 0#6 ∧ selField w = 0#2 ∧ dField w = 0#8 := by
  rw [rowFits_iff, and_eq_iff_fields]
  rw [show opField (rowMask .next) = 0xFF#8 by decide, show zField (rowMask .next) = 0x3F#6 by decide,
    show selField (rowMask .next) = 3#2 by decide, show dField (rowMask .next) = 0xFF#8 by decide,
    show gField (rowMask .next) = 0x00#8 by decide, show opField (rowMatch .next) = 0x02#8 by decide,
    show zField (rowMatch .next) = 0#6 by decide, show selField (rowMatch .next) = 0#2 by decide,
    show dField (rowMatch .next) = 0#8 by decide, show gField (rowMatch .next) = 0#8 by decide]
  simp [and_ones8, and_ones6, and_ones2]

theorem rowFits_split (w : CmdWord) : rowFits w .split = true ↔
    opField w = 0x03#8 ∧ zField w = 0#6 ∧ selField w = 0#2 := by
  rw [rowFits_iff, and_eq_iff_fields]
  rw [show opField (rowMask .split) = 0xFF#8 by decide, show zField (rowMask .split) = 0x3F#6 by decide,
    show selField (rowMask .split) = 3#2 by decide, show dField (rowMask .split) = 0x00#8 by decide,
    show gField (rowMask .split) = 0x00#8 by decide, show opField (rowMatch .split) = 0x03#8 by decide,
    show zField (rowMatch .split) = 0#6 by decide, show selField (rowMatch .split) = 0#2 by decide,
    show dField (rowMatch .split) = 0#8 by decide, show gField (rowMatch .split) = 0#8 by decide]
  simp [and_ones8, and_ones6, and_ones2]

theorem rowFits_skip (w : CmdWord) : rowFits w .skip = true ↔
    opField w = 0x04#8 ∧ zField w = 0#6 ∧ selField w = 0#2 ∧ dField w = 0#8 := by
  rw [rowFits_iff, and_eq_iff_fields]
  rw [show opField (rowMask .skip) = 0xFF#8 by decide, show zField (rowMask .skip) = 0x3F#6 by decide,
    show selField (rowMask .skip) = 3#2 by decide, show dField (rowMask .skip) = 0xFF#8 by decide,
    show gField (rowMask .skip) = 0x00#8 by decide, show opField (rowMatch .skip) = 0x04#8 by decide,
    show zField (rowMatch .skip) = 0#6 by decide, show selField (rowMatch .skip) = 0#2 by decide,
    show dField (rowMatch .skip) = 0#8 by decide, show gField (rowMatch .skip) = 0#8 by decide]
  simp [and_ones8, and_ones6, and_ones2]

theorem rowFits_rdstate (w : CmdWord) : rowFits w .rdstate = true ↔
    opField w = 0x05#8 ∧ zField w = 0#6 ∧ dField w = 0#8 := by
  rw [rowFits_iff, and_eq_iff_fields]
  rw [show opField (rowMask .rdstate) = 0xFF#8 by decide, show zField (rowMask .rdstate) = 0x3F#6 by decide,
    show selField (rowMask .rdstate) = 0#2 by decide, show dField (rowMask .rdstate) = 0xFF#8 by decide,
    show gField (rowMask .rdstate) = 0x00#8 by decide, show opField (rowMatch .rdstate) = 0x05#8 by decide,
    show zField (rowMatch .rdstate) = 0#6 by decide, show selField (rowMatch .rdstate) = 0#2 by decide,
    show dField (rowMatch .rdstate) = 0#8 by decide, show gField (rowMatch .rdstate) = 0#8 by decide]
  simp [and_ones8, and_ones6]

theorem rowFits_mix (w : CmdWord) : rowFits w .mix = true ↔
    opField w = 0x08#8 ∧ zField w = 0#6 ∧ selField w = 0#2 ∧ dField w = 0#8 ∧ gField w = 0#8 := by
  rw [rowFits_iff, and_eq_iff_fields]
  rw [show opField (rowMask .mix) = 0xFF#8 by decide, show zField (rowMask .mix) = 0x3F#6 by decide,
    show selField (rowMask .mix) = 3#2 by decide, show dField (rowMask .mix) = 0xFF#8 by decide,
    show gField (rowMask .mix) = 0xFF#8 by decide, show opField (rowMatch .mix) = 0x08#8 by decide,
    show zField (rowMatch .mix) = 0#6 by decide, show selField (rowMatch .mix) = 0#2 by decide,
    show dField (rowMatch .mix) = 0#8 by decide, show gField (rowMatch .mix) = 0#8 by decide]
  simp [and_ones8, and_ones6, and_ones2]

theorem rowFits_expand16 (w : CmdWord) : rowFits w .expand16 = true ↔
    opField w = 0x09#8 ∧ zField w = 0#6 ∧ selField w = 0#2 ∧ dField w = 0#8 ∧ gField w = 0#8 := by
  rw [rowFits_iff, and_eq_iff_fields]
  rw [show opField (rowMask .expand16) = 0xFF#8 by decide, show zField (rowMask .expand16) = 0x3F#6 by decide,
    show selField (rowMask .expand16) = 3#2 by decide, show dField (rowMask .expand16) = 0xFF#8 by decide,
    show gField (rowMask .expand16) = 0xFF#8 by decide, show opField (rowMatch .expand16) = 0x09#8 by decide,
    show zField (rowMatch .expand16) = 0#6 by decide, show selField (rowMatch .expand16) = 0#2 by decide,
    show dField (rowMatch .expand16) = 0#8 by decide, show gField (rowMatch .expand16) = 0#8 by decide]
  simp [and_ones8, and_ones6, and_ones2]

theorem rowFits_expand32 (w : CmdWord) : rowFits w .expand32 = true ↔
    opField w = 0x0A#8 ∧ zField w = 0#6 ∧ selField w = 0#2 ∧ dField w = 0#8 ∧ gField w = 0#8 := by
  rw [rowFits_iff, and_eq_iff_fields]
  rw [show opField (rowMask .expand32) = 0xFF#8 by decide, show zField (rowMask .expand32) = 0x3F#6 by decide,
    show selField (rowMask .expand32) = 3#2 by decide, show dField (rowMask .expand32) = 0xFF#8 by decide,
    show gField (rowMask .expand32) = 0xFF#8 by decide, show opField (rowMatch .expand32) = 0x0A#8 by decide,
    show zField (rowMatch .expand32) = 0#6 by decide, show selField (rowMatch .expand32) = 0#2 by decide,
    show dField (rowMatch .expand32) = 0#8 by decide, show gField (rowMatch .expand32) = 0#8 by decide]
  simp [and_ones8, and_ones6, and_ones2]

end Sys2Proof
end

