-- ==== Sys2Proof/Laws/State.lean ====
section
/-! SUPPORT. One lemma for each field of State and each update of it, so that no proof unfolds a record update. -/

namespace Sys2Proof.Machine

section FieldsOfUpdates

variable (s : State)

@[simp] theorem State.respond_slots (status : Status) (data : Word) : (s.respond status data).slots = s.slots := rfl
@[simp] theorem State.respond_cmdA (status : Status) (data : Word) : (s.respond status data).cmdA = s.cmdA := rfl
@[simp] theorem State.respond_cmdB (status : Status) (data : Word) : (s.respond status data).cmdB = s.cmdB := rfl
@[simp] theorem State.respond_host (status : Status) (data : Word) : (s.respond status data).host = s.host := rfl
@[simp] theorem State.respond_pending (status : Status) (data : Word) : (s.respond status data).pending =
    s.pending ++ [{ status := status, data := data }] := rfl
@[simp] theorem State.respond_taken (status : Status) (data : Word) : (s.respond status data).taken = s.taken := rfl

@[simp] theorem State.setCtr_slots (ix : SlotIx) (ctr : Word) : (s.setCtr ix ctr).slots =
    s.slots.modify ix.toNat fun sl => { sl with gen := { sl.gen with ctr := ctr } } := rfl
@[simp] theorem State.setCtr_cmdA (ix : SlotIx) (ctr : Word) : (s.setCtr ix ctr).cmdA = s.cmdA := rfl
@[simp] theorem State.setCtr_cmdB (ix : SlotIx) (ctr : Word) : (s.setCtr ix ctr).cmdB = s.cmdB := rfl
@[simp] theorem State.setCtr_host (ix : SlotIx) (ctr : Word) : (s.setCtr ix ctr).host = s.host := rfl
@[simp] theorem State.setCtr_pending (ix : SlotIx) (ctr : Word) : (s.setCtr ix ctr).pending = s.pending := rfl
@[simp] theorem State.setCtr_taken (ix : SlotIx) (ctr : Word) : (s.setCtr ix ctr).taken = s.taken := rfl

@[simp] theorem State.install_slots (ix : SlotIx) (p : Gen) : (s.install ix p).slots =
    s.slots.set ix.toNat { gen := p, valid := true } := rfl
@[simp] theorem State.install_cmdA (ix : SlotIx) (p : Gen) : (s.install ix p).cmdA = s.cmdA := rfl
@[simp] theorem State.install_cmdB (ix : SlotIx) (p : Gen) : (s.install ix p).cmdB = s.cmdB := rfl
@[simp] theorem State.install_host (ix : SlotIx) (p : Gen) : (s.install ix p).host = s.host := rfl
@[simp] theorem State.install_pending (ix : SlotIx) (p : Gen) : (s.install ix p).pending = s.pending := rfl
@[simp] theorem State.install_taken (ix : SlotIx) (p : Gen) : (s.install ix p).taken = s.taken := rfl

@[simp] theorem State.present_slots (a b : Word) (rest : List HostEvent) : (s.present a b rest).slots = s.slots := rfl
@[simp] theorem State.present_cmdA (a b : Word) (rest : List HostEvent) : (s.present a b rest).cmdA = a := rfl
@[simp] theorem State.present_cmdB (a b : Word) (rest : List HostEvent) : (s.present a b rest).cmdB = b := rfl
@[simp] theorem State.present_host (a b : Word) (rest : List HostEvent) : (s.present a b rest).host = rest := rfl
@[simp] theorem State.present_pending (a b : Word) (rest : List HostEvent) : (s.present a b rest).pending =
    s.pending := rfl
@[simp] theorem State.present_taken (a b : Word) (rest : List HostEvent) : (s.present a b rest).taken = s.taken := rfl

@[simp] theorem State.applyReset_slots : s.applyReset.slots = s.slots.map fun _ => Slot.reset := rfl
@[simp] theorem State.applyReset_cmdA : s.applyReset.cmdA = s.cmdA := rfl
@[simp] theorem State.applyReset_cmdB : s.applyReset.cmdB = s.cmdB := rfl
@[simp] theorem State.applyReset_host : s.applyReset.host = s.host := rfl
@[simp] theorem State.applyReset_pending : s.applyReset.pending = [] := rfl
@[simp] theorem State.applyReset_taken : s.applyReset.taken = s.taken := rfl

end FieldsOfUpdates

/-! ### Taking a response (Machine/Fetch.lean) -/

@[simp] theorem State.takeResponse_of_nil {s : State} (h : s.pending = []) : s.takeResponse = s := by
  simp [State.takeResponse, h]

theorem State.takeResponse_of_cons {s : State} {r : Response} {rest : List Response} (h : s.pending = r :: rest) :
    s.takeResponse = { s with pending := rest, taken := s.taken ++ [r] } := by
  simp [State.takeResponse, h]

@[simp] theorem State.takeResponse_slots (s : State) : s.takeResponse.slots = s.slots := by
  unfold State.takeResponse; split <;> rfl

@[simp] theorem State.takeResponse_cmdA (s : State) : s.takeResponse.cmdA = s.cmdA := by
  unfold State.takeResponse; split <;> rfl

@[simp] theorem State.takeResponse_cmdB (s : State) : s.takeResponse.cmdB = s.cmdB := by
  unfold State.takeResponse; split <;> rfl

@[simp] theorem State.takeResponse_host (s : State) : s.takeResponse.host = s.host := by
  unfold State.takeResponse; split <;> rfl

/-- Taking a response neither drops nor reorders one (70_reset_and_hazards.md R90). -/
theorem State.takeResponse_responses (s : State) :
    s.takeResponse.taken ++ s.takeResponse.pending = s.taken ++ s.pending := by
  unfold State.takeResponse; split <;> simp_all

end Sys2Proof.Machine
end

