-- ==== Sys2Proof/Laws/Ops.lean ====
section
/-! SUPPORT. What each shared operation over the slot file and the ports can do, said once. -/

namespace Sys2Proof.Machine

/-! ### Looking a slot up -/

theorem State.slot?_eq (s : State) (ix : SlotIx) : s.slot? ix = s.slots[ix.toNat]? := rfl

theorem State.slot?_eq_none_iff {s : State} {ix : SlotIx} : s.slot? ix = none ↔ s.slots.length ≤ ix.toNat := by
  simp [State.slot?]

theorem State.inRange_iff {s : State} {ix : SlotIx} : s.inRange ix = true ↔ ix.toNat < s.slots.length :=
  decide_eq_true_iff

/-- An index in range has a slot. -/
theorem State.exists_slot {s : State} {ix : SlotIx} (h : ix.toNat < s.slots.length) : ∃ sl, s.slot? ix = some sl :=
  ⟨s.slots[ix.toNat], by simp [State.slot?, h]⟩

theorem State.lt_of_slot {s : State} {ix : SlotIx} {sl : Slot} (h : s.slots[ix.toNat]? = some sl) :
    ix.toNat < s.slots.length := by
  obtain ⟨h', -⟩ := List.getElem?_eq_some_iff.mp h
  exact h'

theorem State.isValid_iff {s : State} {ix : SlotIx} :
    s.isValid ix = true ↔ ∃ sl, s.slots[ix.toNat]? = some sl ∧ sl.valid = true := by
  unfold State.isValid State.slot?
  cases h : s.slots[ix.toNat]? <;> simp

theorem State.isValid_of_slot {s : State} {ix : SlotIx} {sl : Slot} (h : s.slots[ix.toNat]? = some sl) :
    s.isValid ix = sl.valid := by
  simp [State.isValid, State.slot?, h]

/-! ### Writing a slot -/

@[simp] theorem State.setCtr_length (s : State) (ix : SlotIx) (ctr : Word) :
    (s.setCtr ix ctr).slots.length = s.slots.length := by simp

@[simp] theorem State.install_length (s : State) (ix : SlotIx) (p : Gen) :
    (s.install ix p).slots.length = s.slots.length := by simp

/-- Writing the counter of a slot leaves every other slot as it was. -/
theorem State.setCtr_slot_of_ne (s : State) (ix : SlotIx) (ctr : Word) {k : Nat} (h : k ≠ ix.toNat) :
    (s.setCtr ix ctr).slots[k]? = s.slots[k]? := by
  simp only [State.setCtr_slots, List.getElem?_modify, if_neg (Ne.symm h)]
  cases s.slots[k]? <;> rfl

/-- Writing the counter of a slot changes that field of it and no other. -/
theorem State.setCtr_slot_self {s : State} {ix : SlotIx} {sl : Slot} (ctr : Word) (h : s.slots[ix.toNat]? = some sl) :
    (s.setCtr ix ctr).slots[ix.toNat]? = some { sl with gen := { sl.gen with ctr := ctr } } := by
  simp [h]

/-- Writing the counter of a slot, as a list update. -/
theorem State.setCtr_slots_eq_set {s : State} {ix : SlotIx} {sl : Slot} (ctr : Word)
    (h : s.slots[ix.toNat]? = some sl) :
    (s.setCtr ix ctr).slots = s.slots.set ix.toNat { sl with gen := { sl.gen with ctr := ctr } } := by
  apply List.ext_getElem?
  intro k
  by_cases hk : k = ix.toNat
  · subst hk
    rw [s.setCtr_slot_self ctr h, List.getElem?_set_self (State.lt_of_slot h)]
  · rw [s.setCtr_slot_of_ne ix ctr hk, List.getElem?_set_ne (Ne.symm hk)]

/-- Beginning a generator in a slot leaves every other slot as it was. -/
theorem State.install_slot_of_ne (s : State) (ix : SlotIx) (p : Gen) {k : Nat} (h : k ≠ ix.toNat) :
    (s.install ix p).slots[k]? = s.slots[k]? := by
  simp [List.getElem?_set_ne (Ne.symm h)]

/-- A slot in which a generator begins holds it and is valid. -/
theorem State.install_slot_self {s : State} {ix : SlotIx} (p : Gen) (h : ix.toNat < s.slots.length) :
    (s.install ix p).slots[ix.toNat]? = some { gen := p, valid := true } := by
  simp [List.getElem?_set_self h]

/-! ### The checks of a command that reads a generator -/

theorem State.withSource_out_of_range {s : State} {g : SlotIx} {k : Gen → Result} (h : s.slots.length ≤ g.toNat) :
    s.withSource g k = s.refuse .badSlot := by
  simp [State.withSource, State.slot?_eq_none_iff.mpr h]

theorem State.withSource_not_valid {s : State} {g : SlotIx} {sl : Slot} {k : Gen → Result}
    (h : s.slots[g.toNat]? = some sl) (hv : sl.valid = false) : s.withSource g k = s.refuse .uninit := by
  simp [State.withSource, State.slot?, h, hv]

theorem State.withSource_valid {s : State} {g : SlotIx} {sl : Slot} {k : Gen → Result}
    (h : s.slots[g.toNat]? = some sl) (hv : sl.valid = true) : s.withSource g k = k sl.gen := by
  simp [State.withSource, State.slot?, h, hv]

/-- Everything `withSource` can do: refuse with BADSLOT, refuse with UNINIT, or go on with the generator of the slot. -/
theorem State.withSource_cases (s : State) (g : SlotIx) (k : Gen → Result) :
    (s.slots.length ≤ g.toNat ∧ s.withSource g k = s.refuse .badSlot) ∨
    (∃ sl, s.slots[g.toNat]? = some sl ∧ sl.valid = false ∧ s.withSource g k = s.refuse .uninit) ∨
    (∃ sl, s.slots[g.toNat]? = some sl ∧ sl.valid = true ∧ s.withSource g k = k sl.gen) := by
  rcases Nat.lt_or_ge g.toNat s.slots.length with h | h
  · obtain ⟨sl, hs⟩ := State.exists_slot h
    rw [State.slot?_eq] at hs
    cases hv : sl.valid with
    | false => exact .inr (.inl ⟨sl, hs, hv, State.withSource_not_valid hs hv⟩)
    | true => exact .inr (.inr ⟨sl, hs, hv, State.withSource_valid hs hv⟩)
  · exact .inl ⟨h, State.withSource_out_of_range h⟩

/-! ### The response -/

/-- A refusal answers, and changes nothing else (60_exceptions.md R78). -/
theorem State.refuse_eq (s : State) (status : Status) :
    s.refuse status = .next { s with pending := s.pending ++ [{ status := status, data := 0#64 }] } := rfl

theorem State.complete_eq (s : State) (data : Word) :
    s.complete data = .next { s with pending := s.pending ++ [{ status := .ok, data := data }] } := rfl

end Sys2Proof.Machine
end

