-- ==== Sys2Proof/Laws/PerInstr.lean ====
section
/-! SUPPORT. The statements made for every command, one lemma a constructor. Family `OwnRow`: the word a command is
encoded as fits the command's own row of the opcode map and reads back as the command there (30_encoding.md R33). -/

namespace Sys2Proof

/-- The row of the opcode map a command belongs to. -/
def rowOf : Instr → Row
  | .construct _ => .construct
  | .next _ => .next
  | .split _ _ => .split
  | .skip _ => .skip
  | .rdstate _ _ => .rdstate
  | .mix => .mix
  | .expand16 => .expand16
  | .expand32 => .expand32

/-- The encoded word fits its own row, and that row reads the command from it. -/
def Laws.OwnRow.Statement (i : Instr) : Prop :=
  rowFits (encode i) (rowOf i) = true ∧ rowRead (encode i) (rowOf i) = i

theorem Laws.OwnRow.construct (d : SlotIx) : Laws.OwnRow.Statement (.construct d) :=
  ⟨(rowFits_construct _).mpr (by simp [encode]), by simp [rowRead, rowOf, encode]⟩

theorem Laws.OwnRow.next (g : SlotIx) : Laws.OwnRow.Statement (.next g) :=
  ⟨(rowFits_next _).mpr (by simp [encode]), by simp [rowRead, rowOf, encode]⟩

theorem Laws.OwnRow.split (d g : SlotIx) : Laws.OwnRow.Statement (.split d g) :=
  ⟨(rowFits_split _).mpr (by simp [encode]), by simp [rowRead, rowOf, encode]⟩

theorem Laws.OwnRow.skip (g : SlotIx) : Laws.OwnRow.Statement (.skip g) :=
  ⟨(rowFits_skip _).mpr (by simp [encode]), by simp [rowRead, rowOf, encode]⟩

theorem Laws.OwnRow.rdstate (sel : SlotField) (g : SlotIx) : Laws.OwnRow.Statement (.rdstate sel g) :=
  ⟨(rowFits_rdstate _).mpr (by simp [encode]), by simp [rowRead, rowOf, encode]⟩

theorem Laws.OwnRow.mix : Laws.OwnRow.Statement .mix :=
  ⟨(rowFits_mix _).mpr (by simp [encode]), by simp [rowRead, rowOf]⟩

theorem Laws.OwnRow.expand16 : Laws.OwnRow.Statement .expand16 :=
  ⟨(rowFits_expand16 _).mpr (by simp [encode]), by simp [rowRead, rowOf]⟩

theorem Laws.OwnRow.expand32 : Laws.OwnRow.Statement .expand32 :=
  ⟨(rowFits_expand32 _).mpr (by simp [encode]), by simp [rowRead, rowOf]⟩

end Sys2Proof
end

