-- ==== Sys2Proof/Laws/Step.lean ====
section
/-! SUPPORT. What `State.fetch` finds for each thing the host can do, said once, and how a run of the machine unrolls by
one step. -/

namespace Sys2Proof.Machine

theorem State.fetch_idle {s : State} (h : s.host = []) : s.fetch = .settled s := by
  simp [State.fetch, h]

theorem State.fetch_command {s : State} {w : CmdWord} {a b : Word} {rest : List HostEvent} {i : Instr}
    (h : s.host = .command w a b :: rest) (hw : decode w = .command i) : s.fetch = .run i (s.present a b rest) := by
  simp [State.fetch, State.accept, h, hw]

theorem State.fetch_illegal {s : State} {w : CmdWord} {a b : Word} {rest : List HostEvent} {why : IllegalCause}
    (h : s.host = .command w a b :: rest) (hw : decode w = .illegal why) :
    s.fetch = .settled ((s.present a b rest).respond .illegal 0#64) := by
  simp [State.fetch, State.accept, h, hw]

theorem State.fetch_takeResponse {s : State} {rest : List HostEvent} (h : s.host = .takeResponse :: rest) :
    s.fetch = .settled { s.takeResponse with host := rest } := by
  simp [State.fetch, h]

theorem State.fetch_reset {s : State} {rest : List HostEvent} (h : s.host = .reset :: rest) :
    s.fetch = .settled { s.applyReset with host := rest } := by
  simp [State.fetch, h]

/-- What a step does once the ports have settled it. -/
theorem step_of_settled {s t : State} (h : s.fetch = .settled t) : step s = .next t := by
  simp [step, h]

/-- What a step does once a legal command is found. -/
theorem step_of_run {s t : State} {i : Instr} (h : s.fetch = .run i t) : step s = exec i t := by
  simp [step, h]

/-- A run whose first step goes on is the run from there, one step shorter. -/
theorem run_succ_of_step (M : Host.Core) (n : Nat) (s t : M.State) (h : M.step s = .next t) :
    M.run (n + 1) s = M.run n t := by
  simp only [Host.Core.run, h]

end Sys2Proof.Machine
end

