-- ==== Sys2Proof/Tests/Slice0.lean ====
section
/-! SUPPORT. The model's own tests: ill-formed commands are refused; the words written out in spec/ decode as it says; one
step of each command on a small state, expected values from 95_test_vectors.md; and, for every statement with hypotheses,
a concrete state and operands that meet them together. -/

namespace Sys2Proof.Tests

open Sys2Proof.Machine

/-! ### Small states -/

/-- `construct(0, 0)`, as 95_test_vectors.md V-G1 gives it. -/
def genZero : Gen := { x := 0x4748A793EE8DF97C#64, inc := 0x5BE0CD190D99A54D#64, ctr := 0x0000000000000000#64 }

/-- `construct(42, 7)`, as program P2 of 95_test_vectors.md gives it. -/
def genP2 : Gen := { x := 0x4748A793AE8AB947#64, inc := 0x5BE0CD1B40EAA589#64, ctr := 0x01EB40173614AA2A#64 }

/-- The constructed generator of program P3 of 95_test_vectors.md. -/
def genP3 : Gen := { x := 0x4748A793EE8DF97C#64, inc := 0x5BE0CD19EB21AB59#64, ctr := 0x770F13A0AB5B163D#64 }

/-- A block with two slots: slot 0 holds `p`, slot 1 is not valid. -/
def holding (p : Gen) : State :=
  { State.resetWith 2 with slots := [{ gen := p, valid := true }, Slot.reset] }

/-- A command presented to a block. -/
def presented (s : State) (w : CmdWord) (a b : Word) : State := { s with host := [.command w a b] }

/-- The response of a step from a block that owes none. -/
def answer : Result → List Response
  | .next t => t.pending
  | .fault _ => []
  | .refused _ => []

/-- The slots after a step. -/
def slotsAfter : Result → List Slot
  | .next t => t.slots
  | .fault _ => []
  | .refused _ => []

/-! ### Well-formedness: an instance with two slots refuses indices from 2 on (30_encoding.md R36) -/

theorem test_construct_out_of_range_is_ill_formed :
    Instr.wellFormed 2 (.construct 2#8) = false ∧ Instr.wellFormed 2 (.construct 1#8) = true := by decide

theorem test_next_out_of_range_is_ill_formed :
    Instr.wellFormed 2 (.next 255#8) = false ∧ Instr.wellFormed 256 (.next 255#8) = true := by decide

theorem test_split_checks_both_indices :
    Instr.wellFormed 2 (.split 9#8 0#8) = false ∧ Instr.wellFormed 2 (.split 0#8 9#8) = false ∧
    Instr.wellFormed 2 (.split 1#8 0#8) = true ∧ Instr.wellFormed 2 (.split 0#8 0#8) = true := by decide

theorem test_skip_out_of_range_is_ill_formed :
    Instr.wellFormed 1 (.skip 1#8) = false ∧ Instr.wellFormed 1 (.skip 0#8) = true := by decide

theorem test_rdstate_out_of_range_is_ill_formed :
    Instr.wellFormed 2 (.rdstate .valid 5#8) = false ∧ Instr.wellFormed 2 (.rdstate .valid 1#8) = true := by decide

/-! ### Decoding: the words of 95_test_vectors.md section 5.1 -/

theorem test_decode_construct :
    decode 0x01000000#32 = .command (.construct 0#8) ∧ decode 0x0100FF00#32 = .command (.construct 255#8) ∧
    decode 0x01000001#32 = .illegal .mustBeZero ∧ decode 0x01010000#32 = .illegal .mustBeZero := by decide

theorem test_decode_next :
    decode 0x02000003#32 = .command (.next 3#8) ∧ decode 0x02000100#32 = .illegal .mustBeZero ∧
    decode 0x02040000#32 = .illegal .mustBeZero := by decide

theorem test_decode_split :
    decode 0x03000100#32 = .command (.split 1#8 0#8) ∧ decode 0x03000001#32 = .command (.split 0#8 1#8) ∧
    decode 0x03000000#32 = .command (.split 0#8 0#8) ∧ decode 0x03010000#32 = .illegal .mustBeZero := by decide

theorem test_decode_skip : decode 0x04000001#32 = .command (.skip 1#8) := by decide

theorem test_decode_rdstate :
    decode 0x05000000#32 = .command (.rdstate .x 0#8) ∧ decode 0x05010000#32 = .command (.rdstate .inc 0#8) ∧
    decode 0x05020000#32 = .command (.rdstate .ctr 0#8) ∧ decode 0x05030001#32 = .command (.rdstate .valid 1#8) ∧
    decode 0x05040000#32 = .illegal .mustBeZero ∧ decode 0x05000100#32 = .illegal .mustBeZero := by decide

theorem test_decode_pure_functions :
    decode 0x08000000#32 = .command .mix ∧ decode 0x09000000#32 = .command .expand16 ∧
    decode 0x0A000000#32 = .command .expand32 ∧ decode 0x08000001#32 = .illegal .mustBeZero ∧
    decode 0x09000100#32 = .illegal .mustBeZero ∧ decode 0x0A010000#32 = .illegal .mustBeZero := by decide

theorem test_decode_undefined_opcodes :
    [0x00000000#32, 0x06000000#32, 0x07000000#32, 0x0B000000#32, 0x80000000#32, 0xFF000000#32, 0xFFFFFFFF#32].all
      (fun w => decide (decode w = .illegal .undefinedOpcode)) = true := by decide

/-- 30_encoding.md R41: the words of the textual syntax. -/
theorem test_encode :
    encode (.construct 255#8) = 0x0100FF00#32 ∧ encode (.next 3#8) = 0x02000003#32 ∧
    encode (.split 1#8 0#8) = 0x03000100#32 ∧ encode (.skip 1#8) = 0x04000001#32 ∧
    encode (.rdstate .valid 1#8) = 0x05030001#32 ∧ encode .mix = 0x08000000#32 ∧
    encode .expand16 = 0x09000000#32 ∧ encode .expand32 = 0x0A000000#32 := by decide

/-- A row's number of 32 bits is decoded as its word. -/
theorem test_decode_table_word :
    decodeTableWord 32 0x05010000 = some (.rdstate .inc 0#8) ∧ decodeTableWord 32 0x06000000 = none := by decide

/-! ### One step of each command -/

/-- 95_test_vectors.md program P1, line 3. -/
theorem test_construct_fills_its_slot :
    answer (step (presented (State.resetWith 2) 0x01000000#32 0#64 0#64)) = [{ status := .ok, data := 0#64 }] ∧
    slotsAfter (step (presented (State.resetWith 2) 0x01000000#32 0#64 0#64)) =
      [{ gen := genZero, valid := true }, Slot.reset] := by decide

/-- 95_test_vectors.md section 5.2: `CONSTRUCT G2, 0, 0` with two slots. -/
theorem test_construct_bad_slot :
    answer (step (presented (State.resetWith 2) 0x01000200#32 0#64 0#64)) = [{ status := .badSlot, data := 0#64 }] := by
  decide

/-- 95_test_vectors.md program P1, line 4. -/
theorem test_next_mixes_the_old_counter :
    answer (step (presented (holding genZero) 0x02000000#32 0#64 0#64)) =
      [{ status := .ok, data := 0x09508DAE631E69D3#64 }] ∧
    slotsAfter (step (presented (holding genZero) 0x02000000#32 0#64 0#64)) =
      [{ gen := { genZero with ctr := 0x5BE0CD190D99A54D#64 }, valid := true }, Slot.reset] := by decide

/-- 95_test_vectors.md section 4.4: the counter at its maximum. -/
theorem test_next_wraps :
    answer (step (presented (holding { genZero with ctr := 0xFFFFFFFFFFFFFFFF#64 }) 0x02000000#32 0#64 0#64)) =
      [{ status := .ok, data := 0xE4D831BC9A5A2D47#64 }] ∧
    slotsAfter (step (presented (holding { genZero with ctr := 0xFFFFFFFFFFFFFFFF#64 }) 0x02000000#32 0#64 0#64)) =
      [{ gen := { genZero with ctr := 0x5BE0CD190D99A54C#64 }, valid := true }, Slot.reset] := by decide

/-- 95_test_vectors.md program P3, line 2. -/
theorem test_split_into_another_slot :
    slotsAfter (step (presented (holding genP3) 0x03000100#32 0#64 0#64)) =
      [{ gen := { genP3 with ctr := 0x2ED0ADD4819E6CEF#64 }, valid := true },
       { gen := { x := 0x4748A793EE8DF97C#64, inc := 0x5BE0CD198E21D04D#64, ctr := 0xB5D655885E49F4A7#64 },
         valid := true }] := by decide

/-- 95_test_vectors.md program P5, line 2. -/
theorem test_split_onto_its_parent :
    slotsAfter (step (presented (holding genZero) 0x03000000#32 0#64 0#64)) =
      [{ gen := { x := 0x4748A7938E89195A#64, inc := 0x5BE0CD1A5E2C6169#64, ctr := 0x8B53E0F1B5A3624D#64 },
         valid := true }, Slot.reset] := by decide

/-- 95_test_vectors.md section 4.3: distance 5 from `construct(42, 7)`. -/
theorem test_skip_forward :
    slotsAfter (step (presented (holding genP2) 0x04000000#32 5#64 0#64)) =
      [{ gen := { genP2 with ctr := 0xCD4F419F7AA9E5D7#64 }, valid := true }, Slot.reset] := by decide

/-- 95_test_vectors.md program P4, line 3: distance -2. -/
theorem test_skip_backward :
    slotsAfter (step (presented (holding { genZero with ctr := 0x5BE0CD190D99A54C#64 })
      0x04000000#32 0xFFFFFFFFFFFFFFFE#64 0#64)) =
      [{ gen := { genZero with ctr := 0xA41F32E6F2665AB2#64 }, valid := true }, Slot.reset] := by decide

/-- 95_test_vectors.md program P1, line 8. -/
theorem test_rdstate_reads_the_selected_field :
    answer (step (presented (holding genZero) 0x05010000#32 0#64 0#64)) =
      [{ status := .ok, data := 0x5BE0CD190D99A54D#64 }] ∧
    slotsAfter (step (presented (holding genZero) 0x05010000#32 0#64 0#64)) = (holding genZero).slots := by decide

/-- 95_test_vectors.md section 5.2: `valid` is read of a slot that is not valid, the counter is not. -/
theorem test_rdstate_of_a_slot_not_valid :
    answer (step (presented (holding genZero) 0x05030001#32 0#64 0#64)) = [{ status := .ok, data := 0#64 }] ∧
    answer (step (presented (holding genZero) 0x05020001#32 0#64 0#64)) = [{ status := .uninit, data := 0#64 }] := by
  decide

/-- 95_test_vectors.md section 2.1. -/
theorem test_mix_command :
    answer (step (presented State.reset 0x08000000#32 0xDEADBEEFCAFEBABE#64 1#64)) =
      [{ status := .ok, data := 0xBFDCDA77020B3966#64 }] := by decide

/-- 95_test_vectors.md section 2.1: the operands as in the listing there. -/
theorem test_mix_only_the_exclusive_or_matters :
    answer (step (presented State.reset 0x08000000#32 0x0123456789ABCDEF#64 0xFEDCBA9876543210#64)) =
      [{ status := .ok, data := 0x6E0C60E83AC07309#64 }] := by decide

/-- 95_test_vectors.md section 3.1: the upper operand bits are ignored. -/
theorem test_expand16_command :
    answer (step (presented State.reset 0x09000000#32 0xFFFFFFFFFFFF1234#64 0#64)) =
      [{ status := .ok, data := 0x0000000094053E78#64 }] := by decide

/-- 95_test_vectors.md section 3.1: more rows of the table. -/
theorem test_expand16_values :
    expand16 0x0001#16 = 0x201C5F62#32 ∧ expand16 0xABCD#16 = 0x09242C27#32 ∧ expand16 0x5555#16 = 0xF5432A53#32 ∧
    expand16 0xAAAA#16 = 0xEAA25527#32 := by decide

/-- 95_test_vectors.md section 3.2: the upper operand bits are ignored. -/
theorem test_expand32_command :
    answer (step (presented State.reset 0x0A000000#32 0xDEADBEEF5BE0CD19#64 0#64)) =
      [{ status := .ok, data := 0x4748A793EE8DF97C#64 }] := by decide

/-- 95_test_vectors.md section 3.2: more rows of the table. -/
theorem test_expand32_values :
    expand32 0x00000001#32 = 0x001FFF7F201C5F62#64 ∧ expand32 0x00010000#32 = 0x201C5F62001FFF7F#64 ∧
    expand32 0x12345678#32 = 0x94053E7850532FE4#64 := by decide

/-- 95_test_vectors.md program P6, lines 3 and 4: a refused SPLIT changes no slot. -/
theorem test_refused_split_changes_nothing :
    answer (step (presented (holding genZero) 0x03000200#32 0#64 0#64)) = [{ status := .badSlot, data := 0#64 }] ∧
    slotsAfter (step (presented (holding genZero) 0x03000200#32 0#64 0#64)) = (holding genZero).slots ∧
    answer (step (presented (holding genZero) 0x03000001#32 0#64 0#64)) = [{ status := .uninit, data := 0#64 }] ∧
    slotsAfter (step (presented (holding genZero) 0x03000001#32 0#64 0#64)) = (holding genZero).slots := by decide

/-- 95_test_vectors.md section 5.2: decoding comes first. -/
theorem test_illegal_word_answers_illegal :
    answer (step (presented (State.resetWith 2) 0x06000005#32 0#64 0#64)) = [{ status := .illegal, data := 0#64 }] := by
  decide

/-- 95_test_vectors.md program P7: nothing survives reset. -/
theorem test_reset_event_clears_valid :
    slotsAfter (step { holding genZero with host := [.reset] }) = [Slot.reset, Slot.reset] := by decide

/-! ### Witnesses: for every statement with hypotheses, a state and operands that meet them together -/

/-- Three slots, 0 and 1 holding equal generators, 2 not valid. -/
def twins : State :=
  { State.resetWith 3 with
    slots := [{ gen := genP2, valid := true }, { gen := genP2, valid := true }, Slot.reset] }

/-- A block with two slots that owes a response and has nothing presented. -/
def owing : State := { holding genZero with pending := [{ status := .uninit, data := 0#64 }] }

/-- A block whose slot 0 holds a generator, with commands presented one after another. -/
def queued (is : List Instr) : State :=
  { holding genZero with host := is.map fun i => .command (encode i) 7#64 9#64 }

theorem test_witness_RotateRightMovesBits :
    (0 < 1 ∧ 1 < 64 ∧ 0 < 64) ∧ (0 < 63 ∧ 63 < 64 ∧ 63 < 64) := by decide

theorem test_witness_ShiftsAndSlicesAsNumbers : 16 ≤ 64 ∧ 32 ≤ 64 ∧ 64 ≤ 64 := by decide

theorem test_witness_MixFacts : (0 < 64 ∧ ¬41 ≤ 0) ∧ (40 < 64 ∧ ¬41 ≤ 40) ∧ (41 < 64 ∧ 41 ≤ 41) ∧ (63 < 64 ∧ 41 ≤ 63) := by
  decide

theorem test_witness_Expand16MinimumDistance :
    0x0000#16 ≠ 0x2003#16 ∧ hd (expand16 0x0000#16) (expand16 0x2003#16) = 6 ∧ 0x0000#16 ≠ 0x0001#16 := by decide

theorem test_witness_Expand32KeepsDistance :
    0x00000000#32 ≠ 0x00002003#32 ∧
    (0x00000000#32).extractLsb' 16 16 ≠ (0x20032003#32).extractLsb' 16 16 ∧
    (0x00000000#32).extractLsb' 0 16 ≠ (0x20032003#32).extractLsb' 0 16 := by decide

theorem test_witness_SkipMovesTheCounter : 0 ≤ 2 ^ 64 ∧ 5 ≤ 2 ^ 64 ∧ 2 ^ 64 ≤ 2 ^ 64 := by decide

/-- 95_test_vectors.md section 4.2: two stream indices with equal low halves of their tweaks; and each of the four values
of `tweak[31:30]` (section 4.1, rows 2, 7 and 5, and stream index 2). -/
theorem test_witness_StructureOfIncAndX :
    0#64 ≠ 0x0CAA6E9242D1F2D1#64 ∧
    (mix 0#64 1#64).extractLsb' 0 32 = (mix 0x0CAA6E9242D1F2D1#64 1#64).extractLsb' 0 32 ∧
    (mix 1#64 1#64).extractLsb' 30 2 = 0b00#2 ∧ (mix 2#64 1#64).extractLsb' 30 2 = 0b01#2 ∧
    (mix 7#64 1#64).extractLsb' 30 2 = 0b10#2 ∧ (mix 0xFFFFFFFFFFFFFFFF#64 1#64).extractLsb' 30 2 = 0b11#2 := by decide

theorem test_witness_PeriodOfTheCounter :
    genZero.inc.toNat % 2 = 1 ∧ mul64 genZero.inc 0x8434C8E30EB61B85#64 = 1#64 ∧ (0 < 1 ∧ 1 < 2 ^ 64) ∧
    (0 < 2 ^ 64 - 1 ∧ 2 ^ 64 - 1 < 2 ^ 64) := by decide

theorem test_witness_SuccessiveSplitsDrawDistinctWords :
    genP3.inc.toNat % 2 = 1 ∧ (0 < 1 ∧ 1 < 4) ∧ (0 < 3 ∧ 3 < 4) ∧ (2 < 3 ∧ 3 < 4) := by decide

theorem test_witness_ShiftReadingsAgreeExactlyWhen :
    (0x000000003FFFFFFF#64).extractLsb' 30 2 = 0b00#2 ∧ (0x0000000040000000#64).extractLsb' 30 2 ≠ 0b00#2 := by decide

theorem test_witness_DecodeAndEncodeAgree :
    decode 0x0100FF00#32 = .command (.construct 255#8) ∧
    0x0100FF00#32 &&& rowMask .construct = rowMatch .construct ∧
    (∀ r ∈ allRows, 0x00000000#32 &&& rowMask r ≠ rowMatch r) ∧ (∀ r : Row, r ∈ allRows) ∧
    (∃ why, decode 0x00000000#32 = .illegal why) ∧
    (presented (holding genZero) 0x0100FF00#32 0#64 0#64).host = .command 0x0100FF00#32 0#64 0#64 :: [] := by
  exact ⟨by decide, by decide, by decide, fun r => by cases r <;> decide, ⟨.undefinedOpcode, by decide⟩, rfl⟩

theorem test_witness_IllegalWordsAreRefused :
    opField 0x0B000000#32 ∉ [0x01#8, 0x02#8, 0x03#8, 0x04#8, 0x05#8, 0x08#8, 0x09#8, 0x0A#8] ∧
    opField 0x07000000#32 ∉ [0x01#8, 0x02#8, 0x03#8, 0x04#8, 0x05#8, 0x08#8, 0x09#8, 0x0A#8] ∧
    (opField 0x02040000#32 ∈ [0x01#8, 0x02#8, 0x03#8, 0x04#8, 0x05#8, 0x08#8, 0x09#8, 0x0A#8] ∧
      zField 0x02040000#32 ≠ 0#6) ∧
    (opField 0x01010000#32 ≠ 0x05#8 ∧ selField 0x01010000#32 ≠ 0#2) ∧
    (opField 0x02000100#32 ∉ [0x01#8, 0x03#8] ∧ dField 0x02000100#32 ≠ 0#8) ∧
    (opField 0x01000001#32 ∉ [0x02#8, 0x03#8, 0x04#8, 0x05#8] ∧ gField 0x01000001#32 ≠ 0#8) ∧
    (presented (holding genZero) 0x02000100#32 0#64 0#64).host = .command 0x02000100#32 0#64 0#64 :: [] ∧
    decode 0x02000100#32 = .illegal .mustBeZero := by decide

theorem test_witness_MixCommandResult :
    opField 0x08000001#32 = 0x08#8 ∧ (0x08000001#32).extractLsb' 0 24 ≠ 0#24 := by decide

theorem test_witness_Expand16CommandResult :
    opField 0x09000100#32 = 0x09#8 ∧ (0x09000100#32).extractLsb' 0 24 ≠ 0#24 := by decide

theorem test_witness_Expand32CommandResult :
    opField 0x0A010000#32 = 0x0A#8 ∧ (0x0A010000#32).extractLsb' 0 24 ≠ 0#24 := by decide

/-- Index `NGEN - 1` and index `NGEN`; a bit of 23:16 and a bit of 7:0. -/
theorem test_witness_ConstructCommandResult :
    (1#8).toNat < (holding genZero).slots.length ∧ (holding genZero).slots.length ≤ (2#8).toNat ∧
    (opField 0x01010000#32 = 0x01#8 ∧ (0x01010000#32).extractLsb' 16 8 ≠ 0#8) ∧
    (opField 0x01000001#32 = 0x01#8 ∧ (0x01000001#32).extractLsb' 0 8 ≠ 0#8) := by decide

/-- A valid slot, a slot that is not valid, and index `NGEN`; a bit of 23:8. -/
theorem test_witness_NextCommandResult :
    (holding genZero).slots[(0#8).toNat]? = some { gen := genZero, valid := true } ∧
    (holding genZero).slots[(1#8).toNat]? = some Slot.reset ∧ Slot.reset.valid = false ∧
    (holding genZero).slots.length ≤ (2#8).toNat ∧
    (opField 0x02000100#32 = 0x02#8 ∧ (0x02000100#32).extractLsb' 8 16 ≠ 0#16) := by decide

/-- `SPLIT G1, G0`, `SPLIT G0, G0`, `SPLIT G2, G0`, `SPLIT G0, G2`, `SPLIT G0, G1`; a bit of 23:16. -/
theorem test_witness_SplitCommandResult :
    ((holding genZero).slots[(0#8).toNat]? = some { gen := genZero, valid := true } ∧
      (1#8).toNat < (holding genZero).slots.length ∧ (0#8).toNat < (holding genZero).slots.length) ∧
    (holding genZero).slots.length ≤ (2#8).toNat ∧
    ((holding genZero).slots[(1#8).toNat]? = some Slot.reset ∧ Slot.reset.valid = false) ∧
    (opField 0x03010000#32 = 0x03#8 ∧ (0x03010000#32).extractLsb' 16 8 ≠ 0#8) := by decide

theorem test_witness_SkipCommandResult :
    (holding genP2).slots[(0#8).toNat]? = some { gen := genP2, valid := true } ∧ (holding genP2).cmdA = 0#64 ∧
    (holding genP2).slots[(1#8).toNat]? = some Slot.reset ∧ Slot.reset.valid = false ∧
    (holding genP2).slots.length ≤ (2#8).toNat ∧ genP2.inc.toNat % 2 = 1 ∧
    (opField 0x04000100#32 = 0x04#8 ∧ (0x04000100#32).extractLsb' 8 16 ≠ 0#16) := by decide

theorem test_witness_RdstateCommandResult :
    (holding genZero).slots[(0#8).toNat]? = some { gen := genZero, valid := true } ∧
    (holding genZero).slots[(1#8).toNat]? = some Slot.reset ∧ Slot.reset.valid = false ∧
    SlotField.ctr ≠ SlotField.valid ∧ (holding genZero).slots.length ≤ (2#8).toNat ∧
    (opField 0x05040000#32 = 0x05#8 ∧ (0x05040000#32).extractLsb' 18 6 ≠ 0#6) ∧
    (opField 0x05000100#32 = 0x05#8 ∧ (0x05000100#32).extractLsb' 8 8 ≠ 0#8) := by decide

theorem test_witness_FrameOfCommandsThatWriteNoSlot :
    Instr.rdstate .ctr 0#8 = .mix ∨ Instr.rdstate .ctr 0#8 = .expand16 ∨ Instr.rdstate .ctr 0#8 = .expand32 ∨
      ∃ sel g, Instr.rdstate .ctr 0#8 = .rdstate sel g := .inr (.inr (.inr ⟨_, _, rfl⟩))

/-- A NEXT that advances, a SKIP that advances, and each refused, all with a next state. -/
theorem test_witness_FrameOfNextAndSkip :
    (∃ t, exec (.next 0#8) (holding genZero) = .next t ∧ 1 ≠ (0#8).toNat ∧
      (holding genZero).slots[(0#8).toNat]? = some { gen := genZero, valid := true }) ∧
    (∃ t, exec (.skip 0#8) (holding genP2) = .next t) ∧ (∃ t, exec (.next 2#8) (holding genZero) = .next t) ∧
    ∃ t, exec (.skip 1#8) (holding genZero) = .next t := by
  exact ⟨⟨_, rfl, by decide, by decide⟩, ⟨_, rfl⟩, ⟨_, rfl⟩, ⟨_, rfl⟩⟩

theorem test_witness_FrameOfConstructAndSplit :
    (∃ t, exec (.construct 1#8) (holding genZero) = .next t ∧ 0 ≠ (1#8).toNat) ∧
    (∃ t, exec (.split 2#8 0#8) twins = .next t ∧ 1 ≠ (2#8).toNat ∧ 1 ≠ (0#8).toNat ∧ 2#8 ≠ 0#8 ∧
      twins.slots[(0#8).toNat]? = some { gen := genP2, valid := true }) ∧
    ∃ t, exec (.split 0#8 0#8) twins = .next t := by
  exact ⟨⟨_, rfl, by decide⟩, ⟨_, rfl, by decide, by decide, by decide, by decide⟩, ⟨_, rfl⟩⟩

theorem test_witness_OperandsComeFromTheBuses :
    (1#8).toNat < (holding genP2).slots.length ∧
    (holding genP2).slots[(0#8).toNat]? = some { gen := genP2, valid := true } ∧
    (∃ d g, Instr.split 1#8 0#8 = .split d g) ∧ ∃ g, Instr.skip 0#8 = .skip g := by
  exact ⟨by decide, by decide, ⟨_, _, rfl⟩, ⟨_, rfl⟩⟩

/-- `SPLIT G1, G0` with slot 0 valid. -/
theorem test_witness_CheckedCommandsComplete :
    (∀ ix ∈ (Instr.split 1#8 0#8).indices, ix.toNat < (holding genZero).slots.length) ∧
    (∀ g, (Instr.split 1#8 0#8).source? = some g → (holding genZero).isValid g = true) := by
  refine ⟨by decide, fun g hg => ?_⟩
  cases hg
  decide

theorem test_witness_RefusedInExactlyThreeCases :
    (presented (holding genZero) 0x07000000#32 0#64 0#64).host = .command 0x07000000#32 0#64 0#64 :: [] ∧
    (State.resetWith 256).slots.length = 256 := ⟨rfl, List.length_replicate⟩

/-- A word for each of the four statuses: undefined opcode; `SPLIT G9, G0`; `NEXT G1`; `NEXT G0`. -/
theorem test_witness_ChecksInOrder :
    (presented (holding genZero) 0x06000005#32 0#64 0#64).host = .command 0x06000005#32 0#64 0#64 :: [] ∧
    decode 0x06000005#32 = .illegal .undefinedOpcode ∧
    (decode 0x03000900#32 = .command (.split 9#8 0#8) ∧
      ∃ ix ∈ (Instr.split 9#8 0#8).indices, (holding genZero).slots.length ≤ ix.toNat) ∧
    (decode 0x02000001#32 = .command (.next 1#8) ∧
      (∀ ix ∈ (Instr.next 1#8).indices, ix.toNat < (holding genZero).slots.length) ∧
      ∃ g, (Instr.next 1#8).source? = some g ∧ (holding genZero).isValid g = false) ∧
    (decode 0x02000000#32 = .command (.next 0#8) ∧
      (∀ ix ∈ (Instr.next 0#8).indices, ix.toNat < (holding genZero).slots.length) ∧
      ∀ g, (Instr.next 0#8).source? = some g → (holding genZero).isValid g = true) := by
  refine ⟨rfl, by decide, by decide, ⟨by decide, by decide, 1#8, by decide, by decide⟩, by decide, by decide, fun g hg => ?_⟩
  cases hg
  decide

theorem test_witness_RefusalsLeaveNoTrace :
    (holding genZero).dueStatus (.split 2#8 0#8) ≠ .ok ∧
    (presented (holding genZero) 0x00000000#32 0#64 0#64).host = .command 0x00000000#32 0#64 0#64 :: [] ∧
    decode 0x00000000#32 = .illegal .undefinedOpcode := by decide

theorem test_witness_ResponseFormat :
    (presented (holding genZero) 0x04000000#32 5#64 0#64).host = .command 0x04000000#32 5#64 0#64 :: [] ∧
    (∃ i, decode 0x04000000#32 = .command i ∧ i.hasResult = false) := ⟨rfl, .skip 0#8, by decide, rfl⟩

theorem test_witness_NegativeSkipRewinds : 0 < 2 ^ 64 ∧ 6 < 2 ^ 64 ∧ 2 ^ 64 - 1 < 2 ^ 64 := by decide

theorem test_witness_StepRunsTheDecodedCommand :
    (presented (holding genZero) 0x02000000#32 0#64 0#64).host = .command 0x02000000#32 0#64 0#64 :: [] ∧
    decode 0x02000000#32 = .command (.next 0#8) := by decide

theorem test_witness_PlacedWordRuns : decodeTableWord 32 0x03000100 = some (.split 1#8 0#8) := by decide

theorem test_witness_IdleAndTakeKeepTheSlots :
    (holding genZero).host = [] ∧
    ({ owing with host := [.takeResponse] } : State).host = .takeResponse :: [] ∧
    ({ owing with host := [.takeResponse] } : State).pending = { status := .uninit, data := 0#64 } :: [] ∧
    ({ holding genZero with host := [.takeResponse] } : State).host = .takeResponse :: [] ∧
    ({ holding genZero with host := [.takeResponse] } : State).pending = [] := by decide

theorem test_witness_ResponsesInCommandOrder :
    (presented owing 0x02000000#32 0#64 0#64).host = .command 0x02000000#32 0#64 0#64 :: [] ∧
    HostEvent.command 0x02000000#32 0#64 0#64 ≠ .reset ∧ (HostEvent.command 0x02000000#32 0#64 0#64).isCommand = true ∧
    ({ owing with host := [.takeResponse] } : State).host = .takeResponse :: [] ∧ HostEvent.takeResponse ≠ .reset ∧
    HostEvent.takeResponse.isCommand = false := by decide

theorem test_witness_SequentialExecution :
    ((1#8).toNat < (queued [.construct 1#8, .next 1#8]).slots.length ∧
      (queued [.construct 1#8, .next 1#8]).host =
        .command (encode (.construct 1#8)) 7#64 9#64 :: .command (encode (.next 1#8)) 7#64 9#64 :: []) ∧
    ((queued [.next 0#8, .next 0#8]).slots[(0#8).toNat]? = some { gen := genZero, valid := true } ∧
      (queued [.next 0#8, .next 0#8]).host =
        .command (encode (.next 0#8)) 7#64 9#64 :: .command (encode (.next 0#8)) 7#64 9#64 :: []) ∧
    (∀ ix ∈ (Instr.split 1#8 0#8).indices, ix.toNat ≠ 2) := by decide

theorem test_witness_NoHazards :
    (queued [.split 1#8 0#8, .next 1#8]).slots[(0#8).toNat]? = some { gen := genZero, valid := true } ∧
    (1#8).toNat < (queued [.split 1#8 0#8, .next 1#8]).slots.length ∧ 1#8 ≠ 0#8 ∧
    (queued [.split 1#8 0#8, .next 1#8]).host =
      .command (encode (.split 1#8 0#8)) 7#64 9#64 :: .command (encode (.next 1#8)) 7#64 9#64 :: [] ∧
    (queued [.split 1#8 0#8, .next 0#8]).host =
      .command (encode (.split 1#8 0#8)) 7#64 9#64 :: .command (encode (.next 0#8)) 7#64 9#64 :: [] ∧
    (queued [.skip 0#8, .next 0#8]).host =
      .command (encode (.skip 0#8)) 7#64 9#64 :: .command (encode (.next 0#8)) 7#64 9#64 :: [] := by decide

theorem test_witness_ResetEventClearsEverySlot :
    ({ owing with host := [.reset] } : State).host = .reset :: [] := by decide

theorem test_witness_OnlyTheseAnswerOkAfterReset : ∀ sl ∈ (State.resetWith 2).slots, sl.valid = false := by decide

theorem test_witness_ValidBitLifecycle :
    (holding genZero).isValid 0#8 = true ∧ (holding genZero).isValid 1#8 = false ∧
    (Instr.split 1#8 0#8).dest? = some 1#8 ∧ (holding genZero).dueStatus (.split 1#8 0#8) = .ok ∧
    (∀ rest, (holding genZero).host ≠ .reset :: rest) ∧
    ({ holding genZero with host := [.reset] } : State).host = .reset :: [] ∧
    (1#8).toNat < (holding genZero).slots.length := by
  refine ⟨by decide, by decide, by decide, by decide, fun rest h => ?_, by decide, by decide⟩
  cases h

/-- A NEXT, a SKIP, a SPLIT into slot 1 and a refused SPLIT begin no generator in slot 0. -/
theorem test_witness_CounterAfterAnyRun :
    (∀ e ∈ (queued [.next 0#8, .skip 0#8, .split 1#8 0#8, .split 9#8 0#8]).host, e ≠ .reset ∧ e.beginsIn 0#8 = false) ∧
    (queued [.next 0#8, .skip 0#8, .split 1#8 0#8, .split 9#8 0#8]).slots[(0#8).toNat]? =
      some { gen := genZero, valid := true } := by decide

theorem test_witness_EqualGeneratorsBehaveEqually :
    (0#8).toNat < twins.slots.length ∧ (1#8).toNat < twins.slots.length ∧
    twins.slots[(0#8).toNat]? = some { gen := genP2, valid := true } ∧
    twins.slots[(1#8).toNat]? = some { gen := genP2, valid := true } ∧
    twins.cmdA = twins.cmdA ∧ twins.cmdB = twins.cmdB ∧
    (∀ d, SlotOp.splitTo d ∈ [SlotOp.next, .skip 5#64, .splitTo 2#8] →
      d ≠ 0#8 ∧ d ≠ 1#8 ∧ d.toNat < twins.slots.length ∧ d.toNat < twins.slots.length) ∧
    (∃ s t : State, s.slots = twins.slots ∧ t.slots = twins.slots ∧
      s.host = [SlotOp.next, .skip 5#64, .splitTo 2#8].map (SlotOp.event 0#8) ∧
      t.host = [SlotOp.next, .skip 5#64, .splitTo 2#8].map (SlotOp.event 1#8)) := by
  refine ⟨by decide, by decide, by decide, by decide, rfl, rfl, fun d hd => ?_,
    { twins with host := [SlotOp.next, .skip 5#64, .splitTo 2#8].map (SlotOp.event 0#8) },
    { twins with host := [SlotOp.next, .skip 5#64, .splitTo 2#8].map (SlotOp.event 1#8) }, rfl, rfl, rfl, rfl⟩
  have h : d = 2#8 := by simpa using hd
  subst h
  decide

/-- Two different states that are seen alike: the words of slot 1, which is not valid, differ. -/
theorem test_witness_UnwrittenWordsAreNeverObserved :
    (holding genZero).SameSeen { holding genZero with
      slots := [{ gen := genZero, valid := true }, { gen := genP2, valid := false }] } := by
  refine ⟨rfl, fun k a b ha hb => ?_, rfl, rfl, rfl, rfl, rfl⟩
  match k with
  | 0 =>
    cases ha
    cases hb
    exact ⟨rfl, fun _ => rfl⟩
  | 1 =>
    cases ha
    cases hb
    exact ⟨rfl, fun h => absurd h (by decide)⟩
  | k + 2 => simp [holding] at ha

theorem test_witness_EveryStepKeepsTheInvariant :
    (presented (holding genZero) 0x03000100#32 0#64 0#64).Inv ∧
    ∃ t, step (presented (holding genZero) 0x03000100#32 0#64 0#64) = .next t := ⟨by decide, _, rfl⟩

/-- `NGEN` at both ends of its range. -/
theorem test_witness_InvariantHoldsAtReset : Config.LegalNgen 1 ∧ Config.LegalNgen 256 ∧ State.reset.Inv := by decide

end Sys2Proof.Tests
end

section
/-! Words: addition, multiplication and the rotation right of 00_scope.md section 4 (R4, R5). -/

namespace Sys2Proof.Machine

/-- The product of the two's-complement readings is the same word: `ofInt` is a ring homomorphism that undoes `toInt`. -/
theorem mul64_eq_ofInt_toInt (a b : Word) : mul64 a b = BitVec.ofInt 64 (a.toInt * b.toInt) := by
  rw [mul64, BitVec.ofInt_mul, BitVec.ofInt_toInt, BitVec.ofInt_toInt]

/-- The model's two shifts are the library's rotation, whose lemmas then apply. -/
theorem rotr64_eq_rotateRight (v : Word) {r : Nat} (hr : r < 64) : rotr64 v r = v.rotateRight r := by
  rw [rotr64, shr, shl, BitVec.rotateRight_def, Nat.mod_eq_of_lt hr]

theorem toNat_rotr64 (v : Word) (r : Nat) :
    (rotr64 v r).toNat = (v.toNat >>> r ||| v.toNat <<< (64 - r)) % 2 ^ 64 := by
  have hshr : (v >>> r).toNat % 2 ^ 64 = (v >>> r).toNat := Nat.mod_eq_of_lt (v >>> r).isLt
  rw [rotr64, shr, shl, BitVec.toNat_or, BitVec.toNat_shiftLeft, Nat.or_mod_two_pow, ← BitVec.toNat_ushiftRight, hshr]

/-- A bit comes from `r` places up, or wraps round from the bottom of the word. -/
theorem getLsbD_rotr64 (v : Word) {r k : Nat} (hr : r < 64) (hk : k < 64) :
    (rotr64 v r).getLsbD k = v.getLsbD ((k + r) % 64) := by
  rw [rotr64_eq_rotateRight v hr, BitVec.getLsbD_rotateRight_of_lt hr]
  by_cases hwrap : k < 64 - r
  · have hpos : (k + r) % 64 = r + k := by omega
    simp [hwrap, hpos]
  · have hpos : (k + r) % 64 = k - (64 - r) := by omega
    simp [hwrap, hpos, hk]

end Sys2Proof.Machine

open Sys2Proof.Machine

/-- Settles O2: `rotr64` as a number and bit by bit; the examples of R5 are evaluated. -/
theorem rotateRightMovesBits : Obligations.RotateRightMovesBits := by
  unfold Obligations.RotateRightMovesBits
  refine ⟨fun v r _ hr => ⟨toNat_rotr64 v r, fun k hk => getLsbD_rotr64 v hr hk⟩, ?_, ?_⟩ <;> decide

/-- Settles O1: the two words as numbers, and the product of two's-complement operands. -/
theorem addAndMultiplyWrap : Obligations.AddAndMultiplyWrap := by
  unfold Obligations.AddAndMultiplyWrap
  exact fun a b => ⟨toNat_add64 a b, toNat_mul64 a b, mul64_eq_ofInt_toInt a b⟩

end

section
/-! Runs that begin no generator in a slot (10_state.md R15): what such a run carries along is the generator of the slot,
advanced by `skipGen`. NEXT is a skip of one and a SPLIT's parent a skip of two, so one operation describes them all. -/

namespace Sys2Proof.Machine

/-! ### Skips compose -/

theorem skipGen_zero (p : Gen) : skipGen p 0#64 = p := by simp [skipGen, add64, mul64]

theorem skipGen_skipGen (p : Gen) (m n : Word) : skipGen (skipGen p m) n = skipGen p (m + n) := by
  simp [skipGen, add64, mul64, BitVec.add_mul, BitVec.add_assoc]

theorem nextGen_eq_skipGen (p : Gen) : nextGen p = skipGen p 1#64 := by simp [nextGen, skipGen, mul64]

theorem splitParent_eq_skipGen (p : Gen) : splitParent p = skipGen p 2#64 := rfl

/-! ### What a run carries along -/

/-- The block has `ngen` slots, the host goes on with `host`, and slot `ix` is valid and holds `p`. -/
structure State.Carries (s : State) (ngen : Nat) (host : List HostEvent) (ix : SlotIx) (p : Gen) : Prop where
  ngen_eq : s.slots.length = ngen
  host_eq : s.host = host
  slot_eq : s.slots[ix.toNat]? = some { gen := p, valid := true }

section Carries

variable {s : State} {ngen : Nat} {host : List HostEvent} {ix g : SlotIx} {p : Gen}

theorem State.Carries.respond (h : s.Carries ngen host ix p) (status : Status) (data : Word) :
    (s.respond status data).Carries ngen host ix p :=
  ⟨h.ngen_eq, h.host_eq, h.slot_eq⟩

theorem State.Carries.present (h : s.Carries ngen host ix p) (a b : Word) (rest : List HostEvent) :
    (s.present a b rest).Carries ngen rest ix p :=
  ⟨h.ngen_eq, rfl, h.slot_eq⟩

theorem State.Carries.takeResponse (h : s.Carries ngen host ix p) (rest : List HostEvent) :
    State.Carries { s.takeResponse with host := rest } ngen rest ix p :=
  ⟨by simp [h.ngen_eq], rfl, by simp [h.slot_eq]⟩

theorem State.Carries.install_of_ne (h : s.Carries ngen host ix p) {d : SlotIx} (hd : d ≠ ix) (q : Gen) :
    (s.install d q).Carries ngen host ix p where
  ngen_eq := by rw [State.install_length, h.ngen_eq]
  host_eq := h.host_eq
  slot_eq := by rw [State.install_slot_of_ne _ _ _ (BitVec.toNat_ne_iff_ne.mpr hd.symm), h.slot_eq]

/-- Advancing the counter of slot `g` advances the generator of slot `ix` if `g` is that slot, and else keeps it. -/
theorem State.Carries.setCtr_skipGen (h : s.Carries ngen host ix p) {sl : Slot} (hg : s.slots[g.toNat]? = some sl)
    (n : Word) :
    (s.setCtr g (skipGen sl.gen n).ctr).Carries ngen host ix (skipGen p (if g = ix then n else 0#64)) where
  ngen_eq := by rw [State.setCtr_length, h.ngen_eq]
  host_eq := h.host_eq
  slot_eq := by
    by_cases hgi : g = ix
    · subst hgi
      obtain rfl : sl = { gen := p, valid := true } := Option.some.inj (hg.symm.trans h.slot_eq)
      rw [if_pos rfl, State.setCtr_slot_self _ h.slot_eq]
      rfl
    · rw [if_neg hgi, skipGen_zero, State.setCtr_slot_of_ne _ _ _ (BitVec.toNat_ne_iff_ne.mpr (Ne.symm hgi)),
        h.slot_eq]

/-- A command with source `g` passes its checks if `g` is the slot carried, so it is refused only where it would move
nothing. -/
theorem State.Carries.withSource (h : s.Carries ngen host ix p) {k : Gen → Result} {n : Word}
    (hk : ∀ sl, s.slots[g.toNat]? = some sl →
      ∃ t, k sl.gen = .next t ∧ t.Carries ngen host ix (skipGen p (if g = ix then n else 0#64))) :
    ∃ t, s.withSource g k = .next t ∧ t.Carries ngen host ix (skipGen p (if g = ix then n else 0#64)) := by
  by_cases hgi : g = ix
  · subst hgi
    rw [State.withSource_valid h.slot_eq rfl]
    exact hk _ h.slot_eq
  · rw [if_neg hgi, skipGen_zero] at hk ⊢
    rcases s.withSource_cases g k with ⟨-, hr⟩ | ⟨_, -, -, hr⟩ | ⟨sl, hsl, -, hr⟩
    · exact ⟨_, hr, h.respond _ _⟩
    · exact ⟨_, hr, h.respond _ _⟩
    · rw [hr]
      exact hk sl hsl

/-! ### The commands -/

theorem State.Carries.execConstruct (h : s.Carries ngen host ix p) {d : SlotIx} (hd : d ≠ ix) :
    ∃ t, execConstruct d s = .next t ∧ t.Carries ngen host ix p := by
  unfold Machine.execConstruct
  split
  · exact ⟨_, rfl, (h.install_of_ne hd _).respond _ _⟩
  · exact ⟨_, rfl, h.respond _ _⟩

theorem State.Carries.execNext (h : s.Carries ngen host ix p) :
    ∃ t, execNext g s = .next t ∧ t.Carries ngen host ix (skipGen p (if g = ix then 1#64 else 0#64)) := by
  refine h.withSource fun sl hsl => ⟨_, rfl, ?_⟩
  rw [nextGen_eq_skipGen]
  exact (h.setCtr_skipGen hsl _).respond _ _

theorem State.Carries.execSkip (h : s.Carries ngen host ix p) :
    ∃ t, execSkip g s = .next t ∧ t.Carries ngen host ix (skipGen p (if g = ix then s.cmdA else 0#64)) :=
  h.withSource fun _ hsl => ⟨_, rfl, (h.setCtr_skipGen hsl _).respond _ _⟩

/-- The parent is the slot carried only if `g` is, and is advanced only if the destination exists. -/
theorem State.Carries.execSplit (h : s.Carries ngen host ix p) {d : SlotIx} (hd : d ≠ ix) :
    ∃ t, execSplit d g s = .next t ∧
      t.Carries ngen host ix (skipGen p (if g = ix ∧ d ≠ ix ∧ d.toNat < ngen then 2#64 else 0#64)) := by
  unfold Machine.execSplit
  split
  case isTrue hrange =>
    have hlt : d.toNat < ngen := h.ngen_eq ▸ State.inRange_iff.mp hrange
    simp only [hd, hlt, ne_eq, not_false_eq_true, and_true]
    refine h.withSource fun sl hsl => ⟨_, rfl, ?_⟩
    rw [splitParent_eq_skipGen]
    exact ((h.setCtr_skipGen hsl _).install_of_ne hd _).respond _ _
  case isFalse hrange =>
    have hge : ¬ d.toNat < ngen := fun hlt => hrange (State.inRange_iff.mpr (h.ngen_eq ▸ hlt))
    rw [if_neg fun ⟨_, _, hlt⟩ => hge hlt, skipGen_zero]
    exact ⟨_, rfl, h.respond _ _⟩

theorem State.Carries.execRdstate (h : s.Carries ngen host ix p) (sel : SlotField) :
    ∃ t, execRdstate sel g s = .next t ∧ t.Carries ngen host ix p := by
  unfold Machine.execRdstate
  split
  · exact ⟨_, rfl, h.respond _ _⟩
  · split <;> exact ⟨_, rfl, h.respond _ _⟩

/-- A command with another destination advances the generator of slot `ix` by what `Instr.advance` says. -/
theorem State.Carries.exec (h : s.Carries ngen host ix p) {i : Instr} (hdest : i.dest? ≠ some ix) :
    ∃ t, exec i s = .next t ∧ t.Carries ngen host ix (skipGen p (i.advance ngen ix s.cmdA)) := by
  cases i with
  | construct d => exact (skipGen_zero p).symm ▸ h.execConstruct (fun hd => hdest (congrArg some hd))
  | next g => exact h.execNext
  | split d g => exact h.execSplit (fun hd => hdest (congrArg some hd))
  | skip g => exact h.execSkip
  | rdstate sel g => exact (skipGen_zero p).symm ▸ h.execRdstate sel
  | mix | expand16 | expand32 => exact ⟨_, rfl, (skipGen_zero p).symm ▸ h.respond _ _⟩

/-! ### Steps and runs -/

/-- One event, no reset and beginning no generator in slot `ix`, advances its generator by what `HostEvent.advance`
says. -/
theorem State.Carries.step {e : HostEvent} {rest : List HostEvent} (h : s.Carries ngen (e :: rest) ix p)
    (hreset : e ≠ .reset) (hbegins : e.beginsIn ix = false) :
    ∃ t, step s = .next t ∧ t.Carries ngen rest ix (skipGen p (e.advance ngen ix)) := by
  cases e with
  | command w a b =>
    cases hw : decode w with
    | command i =>
      have hdest : i.dest? ≠ some ix := by simpa [HostEvent.beginsIn, hw] using hbegins
      rw [step_of_run (State.fetch_command h.host_eq hw)]
      simpa only [HostEvent.advance, hw, State.present_cmdA] using (h.present a b rest).exec hdest
    | illegal why =>
      refine ⟨_, step_of_settled (State.fetch_illegal h.host_eq hw), ?_⟩
      simpa only [HostEvent.advance, hw, skipGen_zero] using (h.present a b rest).respond .illegal 0#64
  | takeResponse =>
    exact ⟨_, step_of_settled (State.fetch_takeResponse h.host_eq), (skipGen_zero p).symm ▸ h.takeResponse rest⟩
  | reset => exact absurd rfl hreset

end Carries

/-- A run over events that are no reset and begin no generator in slot `ix` advances its generator by all of them. -/
theorem State.Carries.run {evs : List HostEvent} {s : State} {ngen : Nat} {ix : SlotIx} {p : Gen}
    (h : s.Carries ngen evs ix p) (hevs : ∀ e ∈ evs, e ≠ .reset ∧ e.beginsIn ix = false) :
    ∃ t : State, Sys2Proof.core.run evs.length s = .next t ∧
      t.Carries ngen [] ix (skipGen p (totalAdvance ngen ix evs)) := by
  induction evs generalizing s p with
  | nil => exact ⟨s, rfl, (skipGen_zero p).symm ▸ h⟩
  | cons e rest ih =>
    obtain ⟨⟨hreset, hbegins⟩, hrest⟩ := List.forall_mem_cons.mp hevs
    obtain ⟨u, hstep, hu⟩ := h.step hreset hbegins
    obtain ⟨t, hrun, ht⟩ := ih hu hrest
    refine ⟨t, (run_succ_of_step Sys2Proof.core rest.length s u hstep).trans hrun, ?_⟩
    rwa [skipGen_skipGen] at ht

end Sys2Proof.Machine

open Sys2Proof.Machine

/-- Settles O53: a run carries the slot's generator along, skipped by the advances of its events. -/
theorem counterAfterAnyRun : Obligations.CounterAfterAnyRun := by
  unfold Obligations.CounterAfterAnyRun
  intro evs s ix p hhost hevs hslot
  have hcarries : s.Carries s.slots.length evs ix p := ⟨rfl, hhost, hslot⟩
  obtain ⟨t, hrun, ht⟩ := hcarries.run hevs
  exact ⟨t, hrun, ht.slot_eq⟩

end

section
/-! The opcode map (30_encoding.md R33, R43): a word fits at most one row, since the rows' opcodes differ, so decoding takes
the row that fits; and a row's command is encoded as the word it was read from. -/

namespace Sys2Proof

open Sys2Proof.Machine

/-! ### At most one row fits -/

theorem mem_allRows (r : Row) : r ∈ allRows := by cases r <;> decide

theorem opField_rowMask (r : Row) : opField (rowMask r) = 0xFF#8 := by cases r <;> decide

theorem eq_of_opField_rowMatch_eq {r r' : Row} (h : opField (rowMatch r) = opField (rowMatch r')) : r = r' :=
  have distinct : ∀ r ∈ allRows, ∀ r' ∈ allRows, opField (rowMatch r) = opField (rowMatch r') → r = r' := by decide
  distinct r (mem_allRows r) r' (mem_allRows r') h

/-- Every mask holds the whole opcode, so a word has the opcode of a row it fits. -/
theorem opField_of_rowFits {w : CmdWord} {r : Row} (h : rowFits w r = true) : opField w = opField (rowMatch r) := by
  obtain ⟨hop, -⟩ := (and_eq_iff_fields w (rowMask r) (rowMatch r)).mp ((rowFits_iff w r).mp h)
  rwa [opField_rowMask, and_ones8] at hop

theorem row_eq_of_rowFits {w : CmdWord} {r r' : Row} (h : rowFits w r = true) (h' : rowFits w r' = true) : r = r' :=
  eq_of_opField_rowMatch_eq ((opField_of_rowFits h).symm.trans (opField_of_rowFits h'))

/-! ### What decoding takes -/

theorem decode_of_rowFits {w : CmdWord} {r : Row} (h : rowFits w r = true) : decode w = .command (rowRead w r) := by
  obtain ⟨r', hfind⟩ := Option.isSome_iff_exists.mp (List.find?_isSome.mpr ⟨r, mem_allRows r, h⟩)
  obtain rfl : r' = r := row_eq_of_rowFits (List.find?_some hfind) h
  simp only [decode, hfind]

theorem decode_of_no_row {w : CmdWord} (h : ∀ r, ¬ rowFits w r = true) : decode w = .illegal (illegalCause w) := by
  have hfind : allRows.find? (rowFits w) = none := List.find?_eq_none.mpr fun r _ => h r
  simp only [decode, hfind]

/-- A word that decodes to a command fits a row that reads as the command. -/
theorem exists_row_of_decode {w : CmdWord} {i : Instr} (h : decode w = .command i) :
    ∃ r, rowFits w r = true ∧ rowRead w r = i := by
  by_cases hrow : ∃ r, rowFits w r = true
  · obtain ⟨r, hr⟩ := hrow
    exact ⟨r, hr, Decoded.command.inj ((decode_of_rowFits hr).symm.trans h)⟩
  · exact nomatch (decode_of_no_row (not_exists.mp hrow)).symm.trans h

/-! ### Encoding and decoding are inverse -/

theorem ownRow (i : Instr) : Laws.OwnRow.Statement i := by
  cases i with
  | construct d => exact Laws.OwnRow.construct d
  | next g => exact Laws.OwnRow.next g
  | split d g => exact Laws.OwnRow.split d g
  | skip g => exact Laws.OwnRow.skip g
  | rdstate sel g => exact Laws.OwnRow.rdstate sel g
  | mix => exact Laws.OwnRow.mix
  | expand16 => exact Laws.OwnRow.expand16
  | expand32 => exact Laws.OwnRow.expand32

theorem decode_encode (i : Instr) : decode (encode i) = .command i := by
  obtain ⟨hfits, hread⟩ := ownRow i
  rw [decode_of_rowFits hfits, hread]

/-- A row fixes every field that its command does not carry, so nothing of the word is lost in reading it. -/
theorem encode_rowRead {w : CmdWord} {r : Row} (h : rowFits w r = true) : encode (rowRead w r) = w := by
  cases r with
  | construct =>
    obtain ⟨hop, hz, hsel, hg⟩ := (rowFits_construct w).mp h
    simpa only [rowRead, encode, hop, hsel, hg] using packCmd_of_fields hz
  | next =>
    obtain ⟨hop, hz, hsel, hd⟩ := (rowFits_next w).mp h
    simpa only [rowRead, encode, hop, hsel, hd] using packCmd_of_fields hz
  | split =>
    obtain ⟨hop, hz, hsel⟩ := (rowFits_split w).mp h
    simpa only [rowRead, encode, hop, hsel] using packCmd_of_fields hz
  | skip =>
    obtain ⟨hop, hz, hsel, hd⟩ := (rowFits_skip w).mp h
    simpa only [rowRead, encode, hop, hsel, hd] using packCmd_of_fields hz
  | rdstate =>
    obtain ⟨hop, hz, hd⟩ := (rowFits_rdstate w).mp h
    simpa only [rowRead, encode, selOfField_fieldOfSel, hop, hd] using packCmd_of_fields hz
  | mix =>
    obtain ⟨hop, hz, hsel, hd, hg⟩ := (rowFits_mix w).mp h
    simpa only [rowRead, encode, hop, hsel, hd, hg] using packCmd_of_fields hz
  | expand16 =>
    obtain ⟨hop, hz, hsel, hd, hg⟩ := (rowFits_expand16 w).mp h
    simpa only [rowRead, encode, hop, hsel, hd, hg] using packCmd_of_fields hz
  | expand32 =>
    obtain ⟨hop, hz, hsel, hd, hg⟩ := (rowFits_expand32 w).mp h
    simpa only [rowRead, encode, hop, hsel, hd, hg] using packCmd_of_fields hz

theorem encode_of_decode {w : CmdWord} {i : Instr} (h : decode w = .command i) : encode i = w := by
  obtain ⟨r, hfits, rfl⟩ := exists_row_of_decode h
  exact encode_rowRead hfits

end Sys2Proof

open Sys2Proof Sys2Proof.Machine

/-- Settles O21: a word fits at most one row, so decoding and encoding are inverse to each other; what the ports then find
is settled by the decoded word alone. -/
theorem decodeAndEncodeAgree : Obligations.DecodeAndEncodeAgree := by
  unfold Obligations.DecodeAndEncodeAgree
  refine ⟨decode_encode, fun _ _ => encode_of_decode, ?fits, ?none, ?ports⟩
  case fits => exact fun w r h => decode_of_rowFits ((rowFits_iff w r).mpr h)
  case none => exact fun w h => ⟨_, decode_of_no_row fun r => mt (rowFits_iff w r).mp (h r)⟩
  case ports =>
    exact fun s w a b rest hhost =>
      ⟨fun _ hw => ⟨_, State.fetch_command hhost hw⟩, fun _ hw => ⟨_, State.fetch_illegal hhost hw⟩⟩

end

section
/-! The negative distances of SKIP (30_encoding.md R42): `n` nexts are a skip by `n`, and `2^64 - n` is the negative of `n`
among the words, so the two skips add up to none. -/

namespace Sys2Proof.Machine

theorem ofNat_two_pow_sub {n : Nat} (h : n ≤ 2 ^ 64) : BitVec.ofNat 64 (2 ^ 64 - n) = -BitVec.ofNat 64 n := by
  apply eq_neg_of_add_eq_zero_left
  rw [← BitVec.ofNat_add, Nat.sub_add_cancel h]
  rfl

theorem iterate_nextGen_eq_skipGen (n : Nat) (p : Gen) : nextGen^[n] p = skipGen p (BitVec.ofNat 64 n) := by
  induction n with
  | zero => exact (skipGen_zero p).symm
  | succ n ih => rw [Function.iterate_succ_apply', ih, nextGen_eq_skipGen, skipGen_skipGen, BitVec.ofNat_add]

end Sys2Proof.Machine

open Sys2Proof.Machine

/-- Settles O41: the word of `-n` is the negative of the word of `n`, and skips by a word and its negative cancel. -/
theorem negativeSkipRewinds : Obligations.NegativeSkipRewinds := by
  unfold Obligations.NegativeSkipRewinds
  refine ⟨fun n hn => ?word, fun p n hn => ?rewind, by decide, by decide⟩
  case word => rw [BitVec.ofInt_neg, BitVec.ofInt_natCast, ofNat_two_pow_sub hn.le]
  case rewind =>
    simp only [iterate_nextGen_eq_skipGen, skipGen_skipGen, ofNat_two_pow_sub hn.le]
    rw [add_neg_cancel, neg_add_cancel]
    exact ⟨skipGen_zero p, skipGen_zero p⟩

end

section
/-! The operand buses (30_encoding.md R35). A command that reads only a part of the state does the same on all states that
agree on that part: it leaves the same slot file and gives the same response. -/

namespace Sys2Proof.Machine

/-! ### Commands that act alike on a set of states -/

/-- From every state of `P` the command `c` goes on, leaving one and the same slot file and giving one and the same
response, and changes nothing else. -/
def ActsAlikeOn (P : State → Prop) (c : State → Result) : Prop :=
  ∃ (slots : List Slot) (r : Response), ∀ u : State, P u →
    c u = .next { u with slots := slots, pending := u.pending ++ [r] }

section ActsAlikeOn

variable {P : State → Prop} {slots : List Slot}

theorem ActsAlikeOn.congr {c c' : State → Result} (h : ActsAlikeOn P c') (hc : ∀ u, P u → c u = c' u) :
    ActsAlikeOn P c := by
  obtain ⟨slots, r, hr⟩ := h
  exact ⟨slots, r, fun u hu => (hc u hu).trans (hr u hu)⟩

/-- One response, after the slot file is changed by a function of the slot file alone. -/
theorem actsAlikeOn_respond (hP : ∀ u, P u → u.slots = slots) (f : List Slot → List Slot) (status : Status)
    (data : Word) : ActsAlikeOn P fun u => .next (State.respond { u with slots := f u.slots } status data) :=
  ⟨f slots, ⟨status, data⟩, fun u hu => by rw [← hP u hu]; rfl⟩

theorem actsAlikeOn_refuse (hP : ∀ u, P u → u.slots = slots) (status : Status) :
    ActsAlikeOn P fun u => u.refuse status :=
  actsAlikeOn_respond hP id status 0#64

theorem actsAlikeOn_complete (hP : ∀ u, P u → u.slots = slots) (data : Word) :
    ActsAlikeOn P fun u => u.complete data :=
  actsAlikeOn_respond hP id .ok data

/-- The checks of a command read the slot file alone, so it acts alike if it does so with the generator found. -/
theorem actsAlikeOn_withSource (hP : ∀ u, P u → u.slots = slots) {g : SlotIx} {k : State → Gen → Result}
    (hk : ∀ p, ActsAlikeOn P fun u => k u p) : ActsAlikeOn P fun u => u.withSource g (k u) := by
  cases hslot : slots[g.toNat]? with
  | none =>
    refine (actsAlikeOn_refuse hP .badSlot).congr fun u hu => State.withSource_out_of_range ?_
    rwa [hP u hu, ← List.getElem?_eq_none_iff]
  | some sl =>
    cases hvalid : sl.valid with
    | false =>
      exact (actsAlikeOn_refuse hP .uninit).congr fun u hu =>
        State.withSource_not_valid (by rw [hP u hu, hslot]) hvalid
    | true => exact (hk sl.gen).congr fun u hu => State.withSource_valid (by rw [hP u hu, hslot]) hvalid

/-! ### The commands with a source slot -/

theorem actsAlikeOn_execNext (hP : ∀ u, P u → u.slots = slots) (g : SlotIx) : ActsAlikeOn P (execNext g) :=
  actsAlikeOn_withSource hP fun p => actsAlikeOn_respond hP _ .ok (nextOut p)

theorem actsAlikeOn_execSplit (hP : ∀ u, P u → u.slots = slots) (d g : SlotIx) : ActsAlikeOn P (execSplit d g) := by
  by_cases hd : d.toNat < slots.length
  · have hchild : ActsAlikeOn P fun u : State => u.withSource g fun p =>
        ((u.setCtr g (splitParent p).ctr).install d (splitChild p)).complete 0#64 :=
      actsAlikeOn_withSource hP fun p => actsAlikeOn_respond hP
        (fun sls => (sls.modify g.toNat _).set d.toNat _) .ok 0#64
    exact hchild.congr fun u hu => if_pos (State.inRange_iff.mpr ((hP u hu).symm ▸ hd))
  · refine (actsAlikeOn_refuse hP .badSlot).congr fun u hu => if_neg ?_
    rwa [State.inRange_iff, hP u hu]

theorem actsAlikeOn_execRdstate (hP : ∀ u, P u → u.slots = slots) (sel : SlotField) (g : SlotIx) :
    ActsAlikeOn P (execRdstate sel g) := by
  cases hslot : slots[g.toNat]? with
  | none =>
    refine (actsAlikeOn_refuse hP .badSlot).congr fun u hu => ?_
    simp only [execRdstate, State.slot?_eq, hP u hu, hslot]
  | some sl =>
    by_cases hread : sel = .valid ∨ sl.valid = true
    · refine (actsAlikeOn_complete hP (readField sl sel)).congr fun u hu => ?_
      simp only [execRdstate, State.slot?_eq, hP u hu, hslot, if_pos hread]
    · refine (actsAlikeOn_refuse hP .uninit).congr fun u hu => ?_
      simp only [execRdstate, State.slot?_eq, hP u hu, hslot, if_neg hread]

/-- SKIP reads its distance besides, from `cmd_a`. -/
theorem actsAlikeOn_execSkip (hP : ∀ u, P u → u.slots = slots) {a : Word} (ha : ∀ u, P u → u.cmdA = a) (g : SlotIx) :
    ActsAlikeOn P (execSkip g) := by
  have hskip : ActsAlikeOn P fun u : State => u.withSource g fun p =>
      (u.setCtr g (skipGen p a).ctr).complete 0#64 :=
    actsAlikeOn_withSource hP fun p => actsAlikeOn_respond hP _ .ok 0#64
  exact hskip.congr fun u hu => by rw [execSkip, State.distance, ha u hu]

end ActsAlikeOn

/-! ### The operands the buses carry -/

theorem execConstruct_slot {s : State} {d : SlotIx} (hd : d.toNat < s.slots.length) :
    ∃ t, execConstruct d s = .next t ∧
      t.slots[d.toNat]? = some { gen := construct s.cmdA s.cmdB, valid := true } :=
  ⟨_, if_pos (State.inRange_iff.mpr hd), State.install_slot_self _ hd⟩

theorem execSkip_slot {s : State} {g : SlotIx} {sl : Slot} (hslot : s.slots[g.toNat]? = some sl)
    (hvalid : sl.valid = true) :
    ∃ t, execSkip g s = .next t ∧ t.slots[g.toNat]? = some { gen := skipGen sl.gen s.cmdA, valid := true } := by
  refine ⟨_, State.withSource_valid hslot hvalid, ?_⟩
  rw [State.respond_slots, State.setCtr_slot_self _ hslot, hvalid]
  rfl

theorem low16_eq_ofNat (v : Word) : low16 v = BitVec.ofNat 16 v.toNat := rfl

theorem low32_eq_ofNat (v : Word) : low32 v = BitVec.ofNat 32 v.toNat := rfl

end Sys2Proof.Machine

open Sys2Proof Sys2Proof.Machine

/-- Settles O35: the commands that read the slot file alone, and SKIP with `cmd_a` besides, act alike on all states that
differ in the other buses; the pure functions take their operands from the buses by definition. -/
theorem operandsComeFromTheBuses : Obligations.OperandsComeFromTheBuses := by
  unfold Obligations.OperandsComeFromTheBuses
  refine ⟨fun d s _ _ hd => ?construct, fun g s sl _ _ hslot hvalid => ?skip, fun s a b => ?pure, fun i s hi => ?noBus,
    fun i s hi => ?noCmdB⟩
  case construct => exact execConstruct_slot (s := { s with cmdA := _, cmdB := _ }) hd
  case skip => exact execSkip_slot (s := { s with cmdA := _, cmdB := _ }) hslot hvalid
  case pure =>
    rw [← low16_eq_ofNat, ← low32_eq_ofNat]
    exact ⟨⟨_, rfl, rfl⟩, ⟨_, rfl, rfl⟩, ⟨_, rfl, rfl⟩⟩
  case noBus =>
    have halike : ActsAlikeOn (fun u => u.slots = s.slots) (exec i) := by
      rcases hi with ⟨g, rfl⟩ | ⟨d, g, rfl⟩ | ⟨sel, g, rfl⟩
      · exact actsAlikeOn_execNext (fun _ => id) g
      · exact actsAlikeOn_execSplit (fun _ => id) d g
      · exact actsAlikeOn_execRdstate (fun _ => id) sel g
    obtain ⟨slots, r, hnext⟩ := halike
    exact ⟨_, hnext s rfl, fun a b => hnext { s with cmdA := a, cmdB := b } rfl⟩
  case noCmdB =>
    rcases hi with ⟨g, rfl⟩ | rfl | rfl
    · obtain ⟨slots, r, hnext⟩ := actsAlikeOn_execSkip (P := fun u => u.slots = s.slots ∧ u.cmdA = s.cmdA)
        (fun _ => And.left) (fun _ => And.right) g
      exact ⟨_, hnext s ⟨rfl, rfl⟩, fun b => hnext { s with cmdB := b } ⟨rfl, rfl⟩⟩
    · exact ⟨_, rfl, fun _ => rfl⟩
    · exact ⟨_, rfl, fun _ => rfl⟩

end

section
/-! The Mixer (40_mixer.md). Its three linear steps combine a word with two moved copies of itself. Applied twice, such a
step is again one, with both distances doubled: so 64 rotations of step 2, and 4 shifts of step 4 or 6, give the word back.
That makes every step of `mix` a bijection. -/

namespace Sys2Proof.Machine

/-! ### A word combined with two moved copies of itself -/

/-- `T a` moves a word by `a` places: it is additive over exclusive or, and distances add up. -/
structure MovesWords (T : Nat → Word → Word) : Prop where
  xor : ∀ a v w, T a (v ^^^ w) = T a v ^^^ T a w
  add : ∀ a b v, T a (T b v) = T (a + b) v

/-- A word combined with itself moved by `a` and by `b`. -/
def xorMoved (T : Nat → Word → Word) (a b : Nat) (v : Word) : Word := v ^^^ T a v ^^^ T b v

/-- Squaring over GF(2): the copies moved by `a`, by `b` and by `a + b` occur twice each and cancel. -/
theorem xorMoved_xorMoved {T : Nat → Word → Word} (hT : MovesWords T) (a b : Nat) (v : Word) :
    xorMoved T a b (xorMoved T a b v) = xorMoved T (a * 2) (b * 2) v := by
  simp only [xorMoved, hT.xor, hT.add, Nat.add_comm b a, Nat.mul_two]
  calc v ^^^ T a v ^^^ T b v ^^^ (T a v ^^^ T (a + a) v ^^^ T (a + b) v) ^^^ (T b v ^^^ T (a + b) v ^^^ T (b + b) v)
    _ = v ^^^ T (a + a) v ^^^ T (b + b) v ^^^ (T a v ^^^ T a v) ^^^ (T b v ^^^ T b v) ^^^
          (T (a + b) v ^^^ T (a + b) v) := by ac_rfl
    _ = v ^^^ T (a + a) v ^^^ T (b + b) v := by simp only [BitVec.xor_self, BitVec.xor_zero]

theorem iterate_two_pow_xorMoved {T : Nat → Word → Word} (hT : MovesWords T) (a b n : Nat) :
    (xorMoved T a b)^[2 ^ n] = xorMoved T (a * 2 ^ n) (b * 2 ^ n) := by
  induction n with
  | zero => simp
  | succ n ih =>
    funext v
    rw [pow_succ, Function.iterate_mul, ih, Function.iterate_succ_apply, Function.iterate_one, xorMoved_xorMoved hT,
      Nat.mul_assoc, Nat.mul_assoc]

/-! ### Step 2: the rotations -/

theorem getLsbD_rotateRight_mod (v : Word) (r : Nat) {k : Nat} (hk : k < 64) :
    (v.rotateRight r).getLsbD k = v.getLsbD ((k + r) % 64) := by
  have hr : r % 64 < 64 := Nat.mod_lt r (by decide)
  rw [← BitVec.rotateRight_mod_eq_rotateRight, ← rotr64_eq_rotateRight v hr, getLsbD_rotr64 v hr hk, Nat.add_mod_mod]

theorem movesWords_rotateRight : MovesWords fun a v => v.rotateRight a where
  xor a v w := by
    apply BitVec.eq_of_getLsbD_eq
    intro k hk
    simp only [BitVec.getLsbD_xor, getLsbD_rotateRight_mod _ _ hk]
  add a b v := by
    apply BitVec.eq_of_getLsbD_eq
    intro k hk
    rw [getLsbD_rotateRight_mod _ _ hk, getLsbD_rotateRight_mod _ _ (Nat.mod_lt _ (by decide)),
      getLsbD_rotateRight_mod _ _ hk, Nat.mod_add_mod, Nat.add_assoc]

theorem rotateRight_mul_sixtyFour (v : Word) (n : Nat) : v.rotateRight (n * 64) = v := by
  apply BitVec.eq_of_getLsbD_eq
  intro k hk
  rw [getLsbD_rotateRight_mod _ _ hk, Nat.add_mul_mod_self_right, Nat.mod_eq_of_lt hk]

theorem mixRotate_eq_xorMoved : mixRotate = xorMoved (fun a v => v.rotateRight a) 25 47 := by
  funext v
  rw [mixRotate, rotr64_eq_rotateRight v (by decide), rotr64_eq_rotateRight v (by decide), xorMoved]

/-- The 64th power rotates by whole words, so the three terms are the word itself. -/
theorem iterate_mixRotate : mixRotate^[63 + 1] = id := by
  funext v
  rw [mixRotate_eq_xorMoved, show 63 + 1 = 2 ^ 6 from rfl, iterate_two_pow_xorMoved movesWords_rotateRight]
  simp only [xorMoved, Nat.reducePow, rotateRight_mul_sixtyFour, BitVec.xor_self, BitVec.zero_xor, id]

/-! ### Steps 4 and 6: the shifts -/

theorem movesWords_shr : MovesWords fun a v => shr v a where
  xor a v w := shr_xor v w a
  add a b v := by rw [shr, shr, shr, ← BitVec.shiftRight_add, Nat.add_comm]

theorem mixShift_eq_xorMoved : mixShift = xorMoved (fun a v => shr v a) 23 51 := rfl

/-- The 4th power shifts every bit out of both moved copies. -/
theorem iterate_mixShift : mixShift^[3 + 1] = id := by
  funext v
  have hout {n : Nat} (hn : 64 ≤ n) : shr v n = 0#64 := BitVec.ushiftRight_eq_zero hn
  rw [mixShift_eq_xorMoved, show 3 + 1 = 2 ^ 2 from rfl, iterate_two_pow_xorMoved movesWords_shr]
  simp [xorMoved, hout]

theorem getLsbD_mixShift (v : Word) (k : Nat) :
    (mixShift v).getLsbD k = ((v.getLsbD k ^^ v.getLsbD (k + 23)) ^^ v.getLsbD (k + 51)) := by
  simp only [mixShift, BitVec.getLsbD_xor, getLsbD_shr, Nat.add_comm k]

theorem getLsbD_mixShift_of_ge (v : Word) {k : Nat} (hk : 41 ≤ k) : (mixShift v).getLsbD k = v.getLsbD k := by
  rw [getLsbD_mixShift, BitVec.getLsbD_of_ge v (k + 23) (by omega), BitVec.getLsbD_of_ge v (k + 51) (by omega),
    Bool.xor_false, Bool.xor_false]

/-! ### Steps 3 and 5: the multiplications -/

theorem mul64_mul64_of_mul_eq_one {a b : Word} (h : a * b = 1#64) (v : Word) : mul64 (mul64 v a) b = v := by
  rw [mul64, mul64, BitVec.mul_assoc, h, BitVec.mul_one]

theorem mixK1_mul_inverse : mixK1 * 0xB23D0FA7011F19A9#64 = 1#64 := by decide

theorem mixK2_mul_inverse : mixK2 * 0xFB3AD0BA8D2EBB93#64 = 1#64 := by decide

/-! ### Every step is a bijection, and so is `mix` -/

theorem bijective_of_iterate_eq_id {α : Type*} {f : α → α} {n : Nat} (h : f^[n + 1] = id) : Function.Bijective f :=
  Function.bijective_iff_has_inverse.mpr
    ⟨f^[n], fun x => (Function.iterate_succ_apply f n x).symm.trans (congrFun h x),
      fun x => (Function.iterate_succ_apply' f n x).symm.trans (congrFun h x)⟩

theorem bijective_mul64 {a b : Word} (h : a * b = 1#64) : Function.Bijective fun v => mul64 v a :=
  Function.bijective_iff_has_inverse.mpr
    ⟨fun v => mul64 v b, mul64_mul64_of_mul_eq_one h, mul64_mul64_of_mul_eq_one ((BitVec.mul_comm b a).trans h)⟩

theorem bijective_xor (t : Word) : Function.Bijective fun v : Word => v ^^^ t :=
  Function.Involutive.bijective fun v => by rw [BitVec.xor_assoc, BitVec.xor_self, BitVec.xor_zero]

theorem bijective_mixShift : Function.Bijective mixShift := bijective_of_iterate_eq_id iterate_mixShift

theorem bijective_mix (t : Word) : Function.Bijective fun v => mix v t :=
  have hrotate := (bijective_of_iterate_eq_id iterate_mixRotate).comp (bijective_xor t)
  have hround1 := bijective_mixShift.comp ((bijective_mul64 mixK1_mul_inverse).comp hrotate)
  bijective_mixShift.comp ((bijective_mul64 mixK2_mul_inverse).comp hround1)

/-! ### The tweak -/

/-- Step 1 is the only use of the tweak. -/
theorem mix_eq_of_xor_eq {v t v' t' : Word} (h : v ^^^ t = v' ^^^ t') : mix v t = mix v' t' := by
  rw [mix, mix, h]

theorem mix_self (v : Word) : mix v v = 0#64 :=
  calc mix v v = mix 0#64 0#64 := mix_eq_of_xor_eq (by rw [BitVec.xor_self, BitVec.xor_self])
    _ = 0#64 := by decide

end Sys2Proof.Machine

open Sys2Proof.Machine

/-- Settles O5: `mix` depends on the exclusive or of its operands, and each of its steps is inverted. -/
theorem mixFacts : Obligations.MixFacts := by
  unfold Obligations.MixFacts
  refine ⟨fun v t => ⟨?right, ?left, ?swap⟩, mix_self, mix_self 0#64, fun _ => mix_self 0#64, mix_self 1#64,
    bijective_mix, fun v => ⟨?before, ?after⟩, fun v => ⟨?first, ?second⟩,
    fun v k _ => ⟨getLsbD_mixShift_of_ge v, getLsbD_mixShift v k⟩, bijective_mixShift⟩
  case right => exact mix_eq_of_xor_eq (BitVec.xor_zero).symm
  case left => exact mix_eq_of_xor_eq (BitVec.zero_xor).symm
  case swap => exact mix_eq_of_xor_eq (BitVec.xor_comm v t)
  case before => rw [← Function.iterate_succ_apply, iterate_mixRotate, id]
  case after => rw [← Function.iterate_succ_apply' mixRotate, iterate_mixRotate, id]
  case first => exact mul64_mul64_of_mul_eq_one mixK1_mul_inverse v
  case second => exact mul64_mul64_of_mul_eq_one mixK2_mul_inverse v

/-- Settles O4: step 2 is the library's rotation, the other steps are the model's text; the constants and the worked
example of R45 are evaluated. -/
theorem mixFollowsItsSteps : Obligations.MixFollowsItsSteps := by
  unfold Obligations.MixFollowsItsSteps
  refine ⟨fun v tweak => ?steps, ?_, ?_, ?_, ?_, ?_, ?_, ?_, ?_⟩
  case steps =>
    rw [mix, mixRotate_eq_xorMoved]
    rfl
  all_goals decide

end

section
/-! The command MIX (40_mixer.md R46): its result, and its one command word among those with its opcode. -/

namespace Sys2Proof

open Sys2Proof.Machine

/-- A word with a row's opcode can fit no other row; if it does not fit that one, a must-be-zero bit is set
(30_encoding.md R34). -/
theorem decode_mustBeZero_of_opField_eq {w : CmdWord} {r : Row} (hop : opField w = opField (rowMatch r))
    (hfits : ¬ rowFits w r = true) : decode w = .illegal .mustBeZero := by
  have hnone (r' : Row) : ¬ rowFits w r' = true := fun h =>
    hfits (eq_of_opField_rowMatch_eq (hop.symm.trans (opField_of_rowFits h)) ▸ h)
  have hdefined : (allRows.any fun r => opField (rowMatch r) == opField w) = true :=
    List.any_eq_true.mpr ⟨r, mem_allRows r, beq_iff_eq.mpr hop.symm⟩
  rw [decode_of_no_row hnone, illegalCause, if_pos hdefined]

end Sys2Proof

open Sys2Proof Sys2Proof.Machine

/-- Settles O24: `exec` of MIX is a completion; a word with MIX's opcode that is not its one word fits no row. -/
theorem mixCommandResult : Obligations.MixCommandResult := by
  unfold Obligations.MixCommandResult
  refine ⟨fun s => s.complete_eq (mix s.cmdA s.cmdB), by decide, fun w hop hlow => ?illegal, mix_self 0#64, mix_self,
    by decide, by decide⟩
  refine decode_mustBeZero_of_opField_eq (r := .mix) hop fun hfits => hlow ?_
  have hword : w = encode .mix := (encode_rowRead hfits).symm
  rw [hword]
  decide

end

section
/-! Set bits and distances (00_scope.md section 6), and the weights of all the words `L d` of a linear map `L` at once.
The values of one output bit at all `d` are a truth table, held as one number whose bit `d` is the value at `d`. Binary
counters, one for every `d`, add the tables up side by side; the set of the `d` whose word has a given weight is then
one number too. So a fact about the weights of 65536 words is a small computation on numbers of 65536 bits. -/

namespace Sys2Proof.Machine

/-! ### Popcount and distance -/

theorem popcount_append {n m : Nat} (v : BitVec n) (w : BitVec m) : popcount (v ++ w) = popcount v + popcount w := by
  have hlow : ∀ k ∈ List.range m, (v ++ w).getLsbD k = true ↔ w.getLsbD k = true := fun k hk => by
    rw [BitVec.getLsbD_append, if_pos (List.mem_range.mp hk)]
  have hhigh : ((fun k => (v ++ w).getLsbD k) ∘ fun k => m + k) = fun k => v.getLsbD k := by
    funext k
    simp [BitVec.getLsbD_append]
  calc popcount (v ++ w)
    _ = (List.range (m + n)).countP fun k => (v ++ w).getLsbD k := by rw [Nat.add_comm m n, popcount]
    _ = popcount w + popcount v := by
      rw [List.range_add, List.countP_append, List.countP_congr hlow, List.countP_map, hhigh, popcount, popcount]
    _ = popcount v + popcount w := Nat.add_comm _ _

theorem popcount_le {n : Nat} (v : BitVec n) : popcount v ≤ n := by
  simpa [popcount] using List.countP_le_length (p := fun k => v.getLsbD k) (l := List.range n)

theorem hd_self {n : Nat} (v : BitVec n) : hd v v = 0 := by
  simp [hd, popcount]

theorem hd_append {n m : Nat} (a b : BitVec n) (c d : BitVec m) : hd (a ++ c) (b ++ d) = hd a b + hd c d := by
  rw [hd, BitVec.xor_append, popcount_append, hd, hd]

/-! ### Truth tables -/

theorem two_pow_xor_of_lt {n d : Nat} (h : d < 2 ^ n) : 2 ^ n ^^^ d = 2 ^ n + d := by
  apply Nat.eq_of_testBit_eq
  intro i
  have hadd := Nat.two_pow_add_eq_or_of_lt h 1
  rw [Nat.mul_one] at hadd
  rw [hadd, Nat.testBit_xor, Nat.testBit_or, Nat.testBit_two_pow]
  by_cases hi : n = i
  · simp [← hi, Nat.testBit_lt_two_pow h]
  · simp [hi]

/-- The truth table of `f` below `2 ^ n`, for `f` additive over exclusive or: the upper half of a table is the lower
half, inverted if `f` holds of the upper half's first argument. -/
def linearTable (f : Nat → Bool) : Nat → Nat
  | 0 => 0
  | n + 1 => linearTable f n ||| (linearTable f n ^^^ if f (2 ^ n) then 2 ^ 2 ^ n - 1 else 0) <<< 2 ^ n

theorem testBit_linearTable {f : Nat → Bool} (hf : ∀ a b, f (a ^^^ b) = (f a ^^ f b)) (n d : Nat) :
    (linearTable f n).testBit d = (decide (d < 2 ^ n) && f d) := by
  induction n generalizing d with
  | zero =>
    have hzero : f 0 = false := by simpa using hf 0 0
    by_cases hd0 : d = 0 <;> simp [linearTable, hd0, hzero]
  | succ n ih =>
    simp only [linearTable, Nat.testBit_or, Nat.testBit_shiftLeft, Nat.testBit_xor, ih]
    by_cases hlower : d < 2 ^ n
    · have hdouble : d < 2 ^ (n + 1) := by omega
      simp [hlower, hdouble]
    · obtain ⟨e, rfl⟩ := Nat.exists_eq_add_of_le (Nat.le_of_not_lt hlower)
      have hupper : 2 ^ n + e < 2 ^ (n + 1) ↔ e < 2 ^ n := by omega
      by_cases he : e < 2 ^ n
      · rw [← two_pow_xor_of_lt he, hf, two_pow_xor_of_lt he]
        cases f (2 ^ n) <;> simp [he, hupper]
      · cases f (2 ^ n) <;> simp [he, hupper]

/-- Bit `j` of the value of `L`, as a function of the argument's number. -/
def outputBit {m n : Nat} (L : BitVec m → BitVec n) (j d : Nat) : Bool := (L (BitVec.ofNat m d)).getLsbD j

/-- The truth tables of all output bits of a linear map. -/
def outputTables {m n : Nat} (L : BitVec m → BitVec n) : List Nat :=
  (List.range n).map fun j => linearTable (outputBit L j) m

theorem countP_outputTables {m n : Nat} {L : BitVec m → BitVec n} (hL : ∀ a b, L (a ^^^ b) = L a ^^^ L b)
    (d : BitVec m) : (outputTables L).countP (fun t => t.testBit d.toNat) = popcount (L d) := by
  have hbit (j : Nat) : (linearTable (outputBit L j) m).testBit d.toNat = (L d).getLsbD j := by
    rw [testBit_linearTable (fun a b => by simp [outputBit, hL])]
    simp [outputBit, d.isLt]
  rw [outputTables, List.countP_map, popcount]
  exact congrArg (List.countP · _) (funext hbit)

/-! ### A counter for every argument side by side -/

/-- The count at `d`: its binary digits, the least first, are bit `d` of each of `planes`. -/
def countAt (d : Nat) : List Nat → Nat
  | [] => 0
  | p :: planes => (p.testBit d).toNat + 2 * countAt d planes

/-- Adds bit `d` of `t` to the count at `d`, for every `d`: a ripple-carry adder. -/
def addPlane (t : Nat) : List Nat → List Nat
  | [] => [t]
  | p :: planes => (p ^^^ t) :: addPlane (p &&& t) planes

theorem countAt_addPlane (d t : Nat) (planes : List Nat) :
    countAt d (addPlane t planes) = (t.testBit d).toNat + countAt d planes := by
  induction planes generalizing t with
  | nil => rfl
  | cons p planes ih =>
    rw [addPlane, countAt, countAt, ih, Nat.testBit_xor, Nat.testBit_and]
    have hcarry : (p.testBit d ^^ t.testBit d).toNat + 2 * (p.testBit d && t.testBit d).toNat =
        (t.testBit d).toNat + (p.testBit d).toNat := by
      cases p.testBit d <;> cases t.testBit d <;> rfl
    omega

theorem countAt_foldr_addPlane (d : Nat) (ts : List Nat) :
    countAt d (ts.foldr addPlane []) = ts.countP fun t => t.testBit d := by
  induction ts with
  | nil => rfl
  | cons t ts ih =>
    rw [List.foldr_cons, countAt_addPlane, ih, List.countP_cons]
    cases t.testBit d <;> simp [Nat.add_comm]

/-- The set of those `d` of the set `domain` at which the count is `c`. -/
def countsEqual (domain : Nat) : Nat → List Nat → Nat
  | c, [] => if c = 0 then domain else 0
  | c, p :: planes => (if c % 2 = 1 then p else p ^^^ domain) &&& countsEqual domain (c / 2) planes

theorem testBit_countsEqual {domain d : Nat} (hdomain : domain.testBit d = true) (c : Nat) (planes : List Nat) :
    (countsEqual domain c planes).testBit d = decide (countAt d planes = c) := by
  induction planes generalizing c with
  | nil =>
    rw [countsEqual, countAt]
    by_cases hc : c = 0 <;> simp [hc, hdomain, eq_comm]
  | cons p planes ih =>
    rw [countsEqual, countAt, Nat.testBit_and, ih]
    have hdigit := (p.testBit d).toNat_lt
    have hsplit : (p.testBit d).toNat + 2 * countAt d planes = c ↔
        (p.testBit d).toNat = c % 2 ∧ countAt d planes = c / 2 := by omega
    rcases Nat.mod_two_eq_zero_or_one c with hc | hc <;> simp [hsplit, hc, hdomain]

/-- The weights of all the words `L d`. -/
def weightCounts {m n : Nat} (L : BitVec m → BitVec n) : List Nat := (outputTables L).foldr addPlane []

/-- The set of the words `ds`, as one number. -/
def positions {m : Nat} : List (BitVec m) → Nat
  | [] => 0
  | d :: ds => 2 ^ d.toNat ||| positions ds

theorem testBit_positions {m : Nat} (ds : List (BitVec m)) (d : BitVec m) :
    (positions ds).testBit d.toNat = decide (d ∈ ds) := by
  induction ds with
  | nil => simp [positions]
  | cons e ds ih => simp [positions, ih, Nat.testBit_two_pow, BitVec.toNat_inj, eq_comm]

/-- The words at which a linear map takes weight `c`, read off the number that `countsEqual` computes. -/
theorem popcount_eq_iff_mem {m n : Nat} {L : BitVec m → BitVec n} (hL : ∀ a b, L (a ^^^ b) = L a ^^^ L b) {c : Nat}
    {ds : List (BitVec m)} (h : countsEqual (2 ^ 2 ^ m - 1) c (weightCounts L) = positions ds) (d : BitVec m) :
    popcount (L d) = c ↔ d ∈ ds := by
  have hdomain : (2 ^ 2 ^ m - 1).testBit d.toNat = true := by
    rw [Nat.testBit_two_pow_sub_one, decide_eq_true d.isLt]
  have hcount : countAt d.toNat (weightCounts L) = popcount (L d) := by
    rw [weightCounts, countAt_foldr_addPlane, countP_outputTables hL]
  rw [← decide_eq_decide, ← testBit_positions, ← h, testBit_countsEqual hdomain, hcount]

end Sys2Proof.Machine
end

section
/-! The Expander (41_expander.md). `expand16` is affine, so the distance of two of its words is the weight of the linear
part at the difference of the operands, and R54 is decided over all differences; `expand32` does the same on each half. -/

namespace Sys2Proof.Machine

/-! ### `expand16` is affine (R55) -/

/-- Steps 2 to 6 of `expand16`, on the complement and the operand. -/
def spread (hi lo : Quarter) : Half :=
  let a2 := hi ^^^ shr hi 12
  let f0 : Half := a2 ++ lo
  let f1 := f0 ^^^ shr f0 12
  let f2 := f1 ^^^ shl f1 13
  f2 ^^^ shr f2 14

theorem xor_shr_xor {n : Nat} (v w : BitVec n) (k : Nat) :
    v ^^^ w ^^^ shr (v ^^^ w) k = (v ^^^ shr v k) ^^^ (w ^^^ shr w k) := by
  rw [shr_xor]
  ac_rfl

theorem xor_shl_xor {n : Nat} (v w : BitVec n) (k : Nat) :
    v ^^^ w ^^^ shl (v ^^^ w) k = (v ^^^ shl v k) ^^^ (w ^^^ shl w k) := by
  rw [shl_xor]
  ac_rfl

theorem spread_xor (hi hi' lo lo' : Quarter) :
    spread (hi ^^^ hi') (lo ^^^ lo') = spread hi lo ^^^ spread hi' lo' := by
  simp only [spread, xor_shr_xor, ← BitVec.xor_append, xor_shl_xor]

/-- The linear part of `expand16`: its steps without the complement. -/
def expandLinear (w : Quarter) : Half := spread w w

theorem expandLinear_xor (a b : Quarter) : expandLinear (a ^^^ b) = expandLinear a ^^^ expandLinear b :=
  spread_xor a b a b

/-- The complement is an exclusive or with a constant, which the linear steps take to the constant of `expand16`. -/
theorem expand16_eq_xor (w : Quarter) : expand16 w = expandLinear w ^^^ 0x001FFF7F#32 :=
  calc expand16 w = spread (w ^^^ BitVec.allOnes 16) (w ^^^ 0#16) := by
        rw [BitVec.xor_allOnes, BitVec.xor_zero]
        rfl
    _ = expandLinear w ^^^ spread (BitVec.allOnes 16) 0#16 := spread_xor _ _ _ _
    _ = expandLinear w ^^^ 0x001FFF7F#32 := by rw [show spread (BitVec.allOnes 16) 0#16 = 0x001FFF7F#32 by decide]

theorem expand16_xor_expand16 (a b : Quarter) : expand16 a ^^^ expand16 b = expandLinear (a ^^^ b) := by
  calc expand16 a ^^^ expand16 b
    _ = expandLinear a ^^^ expandLinear b ^^^ (0x001FFF7F#32 ^^^ 0x001FFF7F#32) := by
      rw [expand16_eq_xor, expand16_eq_xor]
      ac_rfl
    _ = expandLinear (a ^^^ b) := by rw [BitVec.xor_self, BitVec.xor_zero, expandLinear_xor]

theorem hd_expand16 (a b : Quarter) : hd (expand16 a) (expand16 b) = popcount (expandLinear (a ^^^ b)) := by
  rw [hd, expand16_xor_expand16]

/-! ### The distances of `expand16` (R54) -/

/-- The differences that `expandLinear` takes to a word of weight `c`, for `c` below 7 or above 27. -/
def rareDifferences : Nat → List Quarter
  | 0 => [0#16]
  | 6 => [0x2003#16, 0x4006#16, 0x7D9B#16, 0x800C#16, 0x923C#16, 0x9F58#16, 0xAC81#16, 0xB23F#16, 0xEC87#16]
  | _ => []

theorem countsEqual_expandLinear : ∀ c ≤ 32, c < 7 ∨ 27 < c →
    countsEqual (2 ^ 2 ^ 16 - 1) c (weightCounts expandLinear) = positions (rareDifferences c) := by
  decide +kernel

theorem popcount_expandLinear_eq_iff {c : Nat} (hc : c ≤ 32) (hrare : c < 7 ∨ 27 < c) (d : Quarter) :
    popcount (expandLinear d) = c ↔ d ∈ rareDifferences c :=
  popcount_eq_iff_mem expandLinear_xor (countsEqual_expandLinear c hc hrare) d

theorem eq_zero_of_mem_rareDifferences {c : Nat} {d : Quarter} (hc : c ≠ 6) (h : d ∈ rareDifferences c) :
    d = 0#16 := by
  unfold rareDifferences at h
  split at h
  · exact List.mem_singleton.mp h
  · exact absurd rfl hc
  · exact nomatch h

/-- A non-zero difference is taken to a word of weight 6 to 27: no other weight has a difference but 0. -/
theorem popcount_expandLinear_bounds {d : Quarter} (hne : d ≠ 0#16) :
    6 ≤ popcount (expandLinear d) ∧ popcount (expandLinear d) ≤ 27 := by
  by_contra hout
  have hle := popcount_le (expandLinear d)
  have hmem := (popcount_expandLinear_eq_iff hle (by omega) d).mp rfl
  exact hne (eq_zero_of_mem_rareDifferences (by omega) hmem)

theorem hd_expand16_bounds {a b : Quarter} (h : a ≠ b) :
    6 ≤ hd (expand16 a) (expand16 b) ∧ hd (expand16 a) (expand16 b) ≤ 27 := by
  rw [hd_expand16]
  exact popcount_expandLinear_bounds (mt BitVec.xor_eq_zero_iff.mp h)

theorem expand16_injective : Function.Injective expand16 := by
  intro a b hab
  by_contra hne
  obtain ⟨hmin, -⟩ := hd_expand16_bounds hne
  rw [hab, hd_self] at hmin
  exact absurd hmin (by decide)

/-! ### `expand32` (R51, R56) -/

theorem half_ext {a b : Half} (hhigh : a.extractLsb' 16 16 = b.extractLsb' 16 16)
    (hlow : a.extractLsb' 0 16 = b.extractLsb' 0 16) : a = b := by
  calc a = a.extractLsb' 16 16 ++ a.extractLsb' 0 16 := (BitVec.extractLsb'_append_extractLsb' (len := 16)).symm
    _ = b.extractLsb' 16 16 ++ b.extractLsb' 0 16 := by rw [hhigh, hlow]
    _ = b := BitVec.extractLsb'_append_extractLsb' (len := 16)

theorem expand32_eq_append (w : Half) :
    expand32 w = expand16 (w.extractLsb' 16 16) ++ expand16 (w.extractLsb' 0 16) := rfl

theorem hd_expand32 (a b : Half) : hd (expand32 a) (expand32 b) =
    hd (expand16 (a.extractLsb' 16 16)) (expand16 (b.extractLsb' 16 16)) +
      hd (expand16 (a.extractLsb' 0 16)) (expand16 (b.extractLsb' 0 16)) := hd_append _ _ _ _

theorem six_le_hd_expand32 {a b : Half} (h : a ≠ b) : 6 ≤ hd (expand32 a) (expand32 b) := by
  rw [hd_expand32]
  by_cases hhigh : a.extractLsb' 16 16 = b.extractLsb' 16 16
  · obtain ⟨hmin, -⟩ := hd_expand16_bounds fun hlow => h (half_ext hhigh hlow)
    omega
  · obtain ⟨hmin, -⟩ := hd_expand16_bounds hhigh
    omega

theorem twelve_le_hd_expand32 {a b : Half} (hhigh : a.extractLsb' 16 16 ≠ b.extractLsb' 16 16)
    (hlow : a.extractLsb' 0 16 ≠ b.extractLsb' 0 16) : 12 ≤ hd (expand32 a) (expand32 b) := by
  rw [hd_expand32]
  obtain ⟨hminHigh, -⟩ := hd_expand16_bounds hhigh
  obtain ⟨hminLow, -⟩ := hd_expand16_bounds hlow
  omega

theorem expand32_injective : Function.Injective expand32 := by
  intro a b hab
  have hhigh := congrArg (BitVec.extractLsb' 32 32) hab
  have hlow := congrArg (BitVec.extractLsb' 0 32) hab
  simp only [expand32_eq_append, BitVec.extractLsb'_append_eq_left, BitVec.extractLsb'_append_eq_right] at hhigh hlow
  exact half_ext (expand16_injective hhigh) (expand16_injective hlow)

/-- The linear part of `expand32`: that of `expand16` on each half. -/
def expandLinear32 (w : Half) : Word := expandLinear (w.extractLsb' 16 16) ++ expandLinear (w.extractLsb' 0 16)

theorem expandLinear32_xor (a b : Half) : expandLinear32 (a ^^^ b) = expandLinear32 a ^^^ expandLinear32 b := by
  simp only [expandLinear32, BitVec.extractLsb'_xor, expandLinear_xor]
  exact BitVec.xor_append.symm

theorem expand32_eq_xor (w : Half) : expand32 w = expandLinear32 w ^^^ 0x001FFF7F001FFF7F#64 := by
  rw [expand32_eq_append, expand16_eq_xor, expand16_eq_xor, ← BitVec.xor_append]
  rfl

/-! ### The words of `expand32` that occur as `x` -/

/-- Only bits 31:30 of the stream tweak reach the high half of an increment (42_generator.md R67 (e)). -/
theorem high32_incOfTweak (tweak : Word) :
    high32 (incOfTweak true tweak) = 0x5BE0CD19#32 ^^^ (tweak.extractLsb' 30 2).setWidth 32 := by
  have hmask (j : Nat) : tweakMask.getLsbD j = decide (j < 32) := by
    rw [show tweakMask = (BitVec.allOnes 32).setWidth 64 by decide, BitVec.getLsbD_setWidth, BitVec.getLsbD_allOnes]
    by_cases hj : j < 32 <;> simp [hj]; omega
  have hbits : (tweakBits true tweak).extractLsb' 32 32 = (tweak.extractLsb' 30 2).setWidth 32 := by
    apply BitVec.eq_of_getLsbD_eq
    intro i hi
    have hin : 32 + i < 64 := by omega
    have hmoved : ¬ 32 + i < 2 ∧ 32 + i - 2 = 30 + i := by omega
    have hkept : 30 + i < 32 ↔ i < 2 := by omega
    simp only [tweakBits, if_true, tweakShift, BitVec.getLsbD_extractLsb', BitVec.getLsbD_setWidth, getLsbD_shl,
      BitVec.getLsbD_and, hmask, hi, hin, hmoved, hkept]
    simp [Bool.and_comm]
  rw [high32, incOfTweak, BitVec.extractLsb'_xor, hbits]
  rfl

end Sys2Proof.Machine

open Sys2Proof Sys2Proof.Machine

/-- Settles O8: the distance of a pair is the weight of the linear part at its difference, and the weights below 7 and
above 27 are known; 27 is reached from 0. -/
theorem expand16MinimumDistance : Obligations.Expand16MinimumDistance := by
  unfold Obligations.Expand16MinimumDistance
  refine ⟨fun a b hne => ?bounds, 0x3FFC#16, 0#16, by decide⟩
  obtain ⟨hmin, hmax⟩ := hd_expand16_bounds hne
  refine ⟨hmin, hmax, ?reached⟩
  rw [hd_expand16]
  exact popcount_expandLinear_eq_iff (c := 6) (by decide) (by decide) (a ^^^ b)

/-- Settles O9: `expandLinear` is the linear map; its columns are evaluated. -/
theorem expand16IsAffine : Obligations.Expand16IsAffine := by
  unfold Obligations.Expand16IsAffine
  exact ⟨by decide, ⟨expandLinear, expandLinear_xor, expand16_eq_xor,
    fun a b => ⟨expand16_xor_expand16 a b, hd_expand16 a b⟩, by decide⟩, expand16_injective⟩

/-- Settles O10: distances add up over the halves, each half is affine, and bits 31:30 of the stream tweak choose among
four words. -/
theorem expand32KeepsDistance : Obligations.Expand32KeepsDistance := by
  unfold Obligations.Expand32KeepsDistance
  refine ⟨fun a b => six_le_hd_expand32, fun a b => twelve_le_hd_expand32, expand32_injective,
    ⟨expandLinear32, expandLinear32_xor, expand32_eq_xor⟩, fun seed streamIndex => ⟨rfl, ?four⟩⟩
  have hfour : ∀ b : BitVec 2, expand32 (0x5BE0CD19#32 ^^^ b.setWidth 32) ∈
      [0x4748A793EE8DF97C#64, 0x4748A793CE8E5961#64, 0x4748A793AE8AB947#64, 0x4748A7938E89195A#64] := by decide
  have hx : (construct seed streamIndex).x = expand32 (high32 (incOfTweak true (streamTweak streamIndex))) := rfl
  rw [hx, high32_incOfTweak]
  exact hfour _

/-- Settles O7: `expand32` is the two expanded halves side by side; the examples of R51 are evaluated. -/
theorem expand32ExpandsBothHalves : Obligations.Expand32ExpandsBothHalves := by
  unfold Obligations.Expand32ExpandsBothHalves
  refine ⟨fun w => ⟨?high, ?low⟩, ?_, ?_, ?_, ?_, ?_, ?_, ?_⟩
  case high => exact BitVec.extractLsb'_append_eq_left
  case low => exact BitVec.extractLsb'_append_eq_right
  all_goals decide

/-- Settles O6: packing two halves is a shift and an or, and the shift of step 2 moves bits 15:12 to 3:0 and nothing
else; the examples of R50 are evaluated. -/
theorem expand16FollowsItsSteps : Obligations.Expand16FollowsItsSteps := by
  unfold Obligations.Expand16FollowsItsSteps
  dsimp only
  refine ⟨fun w => ⟨?steps, ?complement, ?kept, ?changed⟩, by decide, by decide, by decide⟩
  case steps =>
    have hpack (hi lo : Quarter) : hi ++ lo = (hi.setWidth 32 <<< 16 ||| lo.setWidth 32 : Half) := by
      rw [BitVec.append_def, BitVec.shiftLeftZeroExtend_eq, BitVec.setWidth'_eq]
    rw [expand16, hpack]
    rfl
  case complement => exact BitVec.toNat_not
  case kept =>
    apply BitVec.eq_of_getLsbD_eq
    intro k hk
    have hout : ¬ 12 + (4 + k) < 16 := by omega
    simp [hout]
  case changed =>
    rw [BitVec.extractLsb'_xor]
    apply BitVec.eq_of_getLsbD_eq
    intro k hk
    simp
end

section
/-! The commands EXPAND16 and EXPAND32 (41_expander.md R52, R53): their results, and their one command word each. -/

namespace Sys2Proof

open Sys2Proof.Machine

/-- Where a row has one command word, without fields, a set bit below the opcode makes the word illegal. -/
theorem decode_mustBeZero_of_low_ne_zero {w : CmdWord} {r : Row} {i : Instr} (hop : opField w = opField (rowMatch r))
    (hread : rowRead w r = i) (hword : (encode i).extractLsb' 0 24 = 0#24) (hlow : w.extractLsb' 0 24 ≠ 0#24) :
    decode w = .illegal .mustBeZero :=
  decode_mustBeZero_of_opField_eq hop fun hfits => hlow (by rw [← encode_rowRead hfits, hread, hword])

end Sys2Proof

open Sys2Proof Sys2Proof.Machine

/-- Settles O25: `exec` of EXPAND16 is a completion, with one command word; zero extension leaves bits 63:32 clear. -/
theorem expand16CommandResult : Obligations.Expand16CommandResult := by
  unfold Obligations.Expand16CommandResult
  refine ⟨fun s => s.complete_eq _, by decide, fun w hop => ?illegal, fun a => ?upper, ?_, ?_, ?_, ?_⟩
  case illegal => exact decode_mustBeZero_of_low_ne_zero (r := .expand16) (i := .expand16) hop rfl (by decide)
  case upper =>
    apply BitVec.eq_of_getLsbD_eq
    intro k hk
    simp [getLsbD_zext64]
  all_goals decide

/-- Settles O26: `exec` of EXPAND32 is a completion, with one command word. -/
theorem expand32CommandResult : Obligations.Expand32CommandResult := by
  unfold Obligations.Expand32CommandResult
  refine ⟨fun s => s.complete_eq _, by decide, fun w hop => ?illegal, ?_, ?_, ?_, ?_⟩
  case illegal => exact decode_mustBeZero_of_low_ne_zero (r := .expand32) (i := .expand32) hop rfl (by decide)
  all_goals decide

end

section
/-! The operations on a generator value (42_generator.md R58, R60, R62, R64): each example of the rules is evaluated. -/

namespace Sys2Proof.Machine

/-- The mask leaves 32 bits, so the shift by 2 loses none of them (42_generator.md R58 step 3). -/
theorem toNat_masked_shiftLeft_two (v : Word) :
    ((v &&& 0x00000000FFFFFFFF#64) <<< 2).toNat = 4 * (v.toNat % 2 ^ 32) := by
  have hmask : v.toNat &&& 4294967295 = v.toNat % 2 ^ 32 := Nat.and_two_pow_sub_one_eq_mod v.toNat 32
  rw [BitVec.toNat_shiftLeft, BitVec.toNat_and, BitVec.toNat_ofNat, Nat.shiftLeft_eq, hmask]
  omega

theorem toNat_skipGen_ctr (p : Gen) (distance : Word) :
    (skipGen p distance).ctr.toNat = (p.ctr.toNat + distance.toNat * p.inc.toNat) % 2 ^ 64 := by
  rw [skipGen, toNat_add64, toNat_mul64, Nat.add_mod_mod]

/-- A split moves its parent by as much as the two nexts whose outputs it takes. -/
theorem splitParent_eq_nextGen_nextGen (p : Gen) : splitParent p = nextGen (nextGen p) := by
  rw [nextGen_eq_skipGen, nextGen_eq_skipGen, skipGen_skipGen]
  rfl

theorem skipGen_toNat_eq_iterate_nextGen (p : Gen) (n : Word) : skipGen p n = nextGen^[n.toNat] p := by
  rw [iterate_nextGen_eq_skipGen, BitVec.ofNat_toNat, BitVec.setWidth_eq]

end Sys2Proof.Machine

open Sys2Proof.Machine

/-- Settles O11: `construct` is its steps by definition, the shift being the 64-bit one. -/
theorem constructFollowsItsSteps : Obligations.ConstructFollowsItsSteps := by
  unfold Obligations.ConstructFollowsItsSteps
  exact ⟨fun _ _ => ⟨rfl, toNat_masked_shiftLeft_two _⟩, by decide, by decide⟩

/-- Settles O12: `next` by its definition. -/
theorem nextMixesTheOldCounter : Obligations.NextMixesTheOldCounter := by
  unfold Obligations.NextMixesTheOldCounter
  refine ⟨fun _ => ⟨rfl, rfl⟩, fun _ _ => rfl, ?_, ?_, ?_, ?_, ?_, ?_⟩ <;> decide

/-- Settles O13: the child is made from the outputs of two nexts, and two nexts are what moves the parent. -/
theorem splitDrawsTwoOutputs : Obligations.SplitDrawsTwoOutputs := by
  unfold Obligations.SplitDrawsTwoOutputs
  exact ⟨fun p => ⟨rfl, rfl, rfl, splitParent_eq_nextGen_nextGen p⟩, by decide, by decide, by decide⟩

/-- Settles O14: the product of the distance is the same word for signed operands; distances add up, and a distance and its
negative add up to none. -/
theorem skipMovesTheCounter : Obligations.SkipMovesTheCounter := by
  unfold Obligations.SkipMovesTheCounter
  refine ⟨fun p distance => ⟨rfl, rfl, toNat_skipGen_ctr p distance, ?signed⟩, skipGen_zero, skipGen_skipGen,
    fun p n hn => ?undone, by decide, by decide, by decide⟩
  case signed => rw [← mul64_eq_ofInt_toInt]; rfl
  case undone =>
    rw [skipGen_skipGen, ofNat_two_pow_sub hn, add_neg_cancel]
    exact skipGen_zero p

/-- Settles O16: `n` nexts are a skip by `n`, so what follows them is the same. -/
theorem skipEqualsRepeatedNext : Obligations.SkipEqualsRepeatedNext := by
  unfold Obligations.SkipEqualsRepeatedNext
  intro p n
  rw [Function.iterate_succ_apply', ← skipGen_toNat_eq_iterate_nextGen]
  exact ⟨rfl, rfl, rfl⟩

end

section
/-! The period of the counter (42_generator.md R69). An odd increment has an inverse among the words, so the distance of a
skip and the counter it leads to determine each other; `mix` is a bijection, so the distance and the output do too. -/

namespace Sys2Proof.Machine

/-! ### Odd words are invertible -/

theorem exists_mul64_eq_one {v : Word} (hodd : v.toNat % 2 = 1) : ∃ inv, mul64 v inv = 1#64 := by
  have hcoprime : v.toNat.Coprime (2 ^ 64) := (Nat.coprime_two_right.mpr (Nat.odd_iff.mpr hodd)).pow_right 64
  obtain ⟨n, -, hn⟩ := Nat.exists_mul_mod_eq_one_of_coprime hcoprime (by decide)
  refine ⟨BitVec.ofNat 64 n, BitVec.eq_of_toNat_eq ?_⟩
  rw [toNat_mul64, BitVec.toNat_ofNat, Nat.mul_mod_mod, hn]
  rfl

theorem skipGen_ctr_of_inverse (p : Gen) {inv : Word} (hinv : mul64 p.inc inv = 1#64) (target : Word) :
    (skipGen p (mul64 (target - p.ctr) inv)).ctr = target := by
  have hcancel : inv * p.inc = 1#64 := (BitVec.mul_comm inv p.inc).trans hinv
  rw [skipGen, mul64_mul64_of_mul_eq_one hcancel]
  exact add_sub_cancel p.ctr target

/-! ### Distances, counters and outputs -/

section OddIncrement

variable {p : Gen} (hodd : p.inc.toNat % 2 = 1)
include hodd

theorem bijective_skipGen_ctr : Function.Bijective fun k : Word => (skipGen p k).ctr := by
  obtain ⟨inv, hinv⟩ := exists_mul64_eq_one hodd
  exact (AddGroup.addLeft_bijective p.ctr).comp (bijective_mul64 hinv)

theorem bijective_nextOut_skipGen : Function.Bijective fun k : Word => nextOut (skipGen p k) :=
  (bijective_mix p.x).comp (bijective_skipGen_ctr hodd)

theorem iterate_nextGen_ctr_ne {n : Nat} (hpos : 0 < n) (hlt : n < 2 ^ 64) : (nextGen^[n] p).ctr ≠ p.ctr := by
  rw [iterate_nextGen_eq_skipGen]
  intro hctr
  have hzero : BitVec.ofNat 64 n = 0#64 :=
    (bijective_skipGen_ctr hodd).injective (hctr.trans (congrArg Gen.ctr (skipGen_zero p).symm))
  have hnat := congrArg BitVec.toNat hzero
  rw [BitVec.toNat_ofNat, Nat.mod_eq_of_lt hlt] at hnat
  exact hpos.ne' hnat

/-- Within a period the outputs are pairwise distinct. -/
theorem nextOut_iterate_injOn {m n : Nat} (hm : m < 2 ^ 64) (hn : n < 2 ^ 64)
    (hout : nextOut (nextGen^[m] p) = nextOut (nextGen^[n] p)) : m = n := by
  rw [iterate_nextGen_eq_skipGen, iterate_nextGen_eq_skipGen] at hout
  have hnat := congrArg BitVec.toNat ((bijective_nextOut_skipGen hodd).injective hout)
  rwa [BitVec.toNat_ofNat, BitVec.toNat_ofNat, Nat.mod_eq_of_lt hm, Nat.mod_eq_of_lt hn] at hnat

theorem exists_nextOut_iterate_eq (word : Word) : ∃ n, n < 2 ^ 64 ∧ nextOut (nextGen^[n] p) = word := by
  obtain ⟨k, hk⟩ := (bijective_nextOut_skipGen hodd).surjective word
  exact ⟨k.toNat, k.isLt, by rwa [← skipGen_toNat_eq_iterate_nextGen]⟩

end OddIncrement

theorem iterate_nextGen_period (p : Gen) : nextGen^[2 ^ 64] p = p := by
  rw [iterate_nextGen_eq_skipGen, show BitVec.ofNat 64 (2 ^ 64) = 0#64 by decide, skipGen_zero]

end Sys2Proof.Machine

open Sys2Proof.Machine

/-- Settles O17: an odd increment is invertible, so each counter and each output has one distance below 2^64. -/
theorem periodOfTheCounter : Obligations.PeriodOfTheCounter := by
  unfold Obligations.PeriodOfTheCounter
  refine ⟨fun p hodd => ⟨bijective_skipGen_ctr hodd, iterate_nextGen_period p, fun n => iterate_nextGen_ctr_ne hodd,
    fun word => ?once, exists_mul64_eq_one hodd⟩, fun p inv target hinv => skipGen_ctr_of_inverse p hinv target,
    by decide⟩
  case once =>
    obtain ⟨n, hn, hout⟩ := exists_nextOut_iterate_eq hodd word
    exact ⟨n, hn, hout, fun m hm hword => nextOut_iterate_injOn hodd hm hn (hword.trans hout.symm)⟩

/-- Settles O18: the second split begins two nexts on; outputs within a period are distinct. -/
theorem successiveSplitsDrawDistinctWords : Obligations.SuccessiveSplitsDrawDistinctWords := by
  unfold Obligations.SuccessiveSplitsDrawDistinctWords
  refine ⟨fun p hodd => ⟨rfl, ?second, fun j k hjk hk hout => ?distinct⟩, by decide, by decide⟩
  case second => rw [splitParent_eq_nextGen_nextGen]; rfl
  case distinct => exact hjk.ne (nextOut_iterate_injOn hodd (by omega) (by omega) hout)

end

section
/-! The structure of `inc` and `x` (42_generator.md R67). An increment is 30 fixed bits, the bits of `INC_BASE` combined
with the low half of the stream tweak, and `01`: so it is one word for each such half, and `x` follows from its top bits. -/

namespace Sys2Proof.Machine

/-! ### The increment and the low half of the tweak (R67 (a) to (d)) -/

/-- The increment of a stream tweak whose low half is `h`, field by field. -/
def incOfLow (h : Half) : Word := 0x16F83346#30 ++ (0x44DF885E#32 ^^^ h) ++ 0b01#2

theorem tweakBits_eq_append (tweak : Word) : tweakBits true tweak = 0#30 ++ low32 tweak ++ 0#2 := by
  apply BitVec.eq_of_toNat_eq
  have hlow : (low32 tweak).toNat = tweak.toNat % 2 ^ 32 := BitVec.extractLsb'_toNat 0 32 tweak
  calc (tweakBits true tweak).toNat
    _ = 4 * (tweak.toNat % 2 ^ 32) := toNat_masked_shiftLeft_two tweak
    _ = (0#30 ++ low32 tweak).toNat <<< 2 ||| (0#2).toNat := by
      rw [BitVec.toNat_append, hlow]
      simp [Nat.shiftLeft_eq, Nat.mul_comm]
    _ = (0#30 ++ low32 tweak ++ 0#2).toNat := (BitVec.toNat_append _ _).symm

theorem incOfTweak_eq_incOfLow (tweak : Word) : incOfTweak true tweak = incOfLow (low32 tweak) := by
  calc incOfTweak true tweak
    _ = (0x16F83346#30 ++ 0x44DF885E#32 ++ 0b01#2) ^^^ (0#30 ++ low32 tweak ++ 0#2) := by
      rw [← tweakBits_eq_append]; rfl
    _ = incOfLow (low32 tweak) := by rw [BitVec.xor_append, BitVec.xor_append]; rfl

theorem incOfLow_bits_low (h : Half) : (incOfLow h).extractLsb' 0 2 = 0b01#2 := BitVec.extractLsb'_append_eq_right

theorem incOfLow_bits_mid (h : Half) : (incOfLow h).extractLsb' 2 32 = 0x44DF885E#32 ^^^ h :=
  (BitVec.extractLsb'_append_eq_of_le (by decide)).trans BitVec.extractLsb'_append_eq_right

theorem incOfLow_bits_top (h : Half) : (incOfLow h).extractLsb' 34 30 = 0x16F83346#30 :=
  (BitVec.extractLsb'_append_eq_of_le (by decide)).trans BitVec.extractLsb'_append_eq_left

theorem toNat_mod_two_of_bits_low {v : Word} (h : v.extractLsb' 0 2 = 0b01#2) : v.toNat % 2 = 1 := by
  have hnat : v.toNat >>> 0 % 2 ^ 2 = 1 := (BitVec.extractLsb'_toNat 0 2 v).symm.trans (congrArg BitVec.toNat h)
  rw [Nat.shiftRight_zero] at hnat
  omega

theorem incOfLow_injective : Function.Injective incOfLow := by
  intro h h' heq
  have hmid := congrArg (BitVec.extractLsb' 2 32) heq
  rwa [incOfLow_bits_mid, incOfLow_bits_mid, BitVec.xor_right_inj] at hmid

theorem construct_eq (seed i : Word) : construct seed i =
    { x := xOfInc (incOfLow (low32 (streamTweak i))), inc := incOfLow (low32 (streamTweak i)), ctr := mix seed 0#64 } := by
  rw [← incOfTweak_eq_incOfLow]
  rfl

theorem construct_inc (seed i : Word) : (construct seed i).inc = incOfLow (low32 (streamTweak i)) := by
  rw [construct_eq]

/-! ### How many stream indices, how many increments (R67 (d)) -/

theorem low32_append (hi lo : Half) : low32 (hi ++ lo) = lo := BitVec.extractLsb'_append_eq_right

theorem append_low32 (v : Word) : high32 v ++ low32 v = v := BitVec.extractLsb'_append_extractLsb' (len := 32)

/-- The stream indices that share an increment are those whose tweaks share the low half: one for each high half. -/
theorem exists_injective_onto_sameInc (seed i : Word) : ∃ e : Half → Word, Function.Injective e ∧
    ∀ j : Word, (construct seed j).inc = (construct seed i).inc ↔ ∃ h, e h = j := by
  obtain ⟨index, hleft, hright⟩ := Function.bijective_iff_has_inverse.mp (bijective_mix 1#64)
  refine ⟨fun h => index (h ++ low32 (streamTweak i)), fun h h' heq => ?injective, fun j => ?onto⟩
  case injective => exact (BitVec.append_left_inj _).mp (hright.injective heq)
  case onto =>
    rw [construct_inc, construct_inc, incOfLow_injective.eq_iff]
    constructor
    · intro hlow
      have htweak : high32 (streamTweak j) ++ low32 (streamTweak i) = streamTweak j := hlow ▸ append_low32 _
      exact ⟨_, (congrArg index htweak).trans (hleft j)⟩
    · rintro ⟨h, rfl⟩
      exact (congrArg low32 (hright _)).trans (low32_append _ _)

/-- Every low half is that of some tweak, so every word of `incOfLow` occurs. -/
theorem exists_construct_inc_iff (inc : Word) :
    (∃ seed i : Word, (construct seed i).inc = inc) ↔ ∃ h, incOfLow h = inc := by
  constructor
  · rintro ⟨seed, i, rfl⟩
    exact ⟨_, (construct_inc seed i).symm⟩
  · rintro ⟨h, rfl⟩
    obtain ⟨i, hi⟩ := (bijective_mix 1#64).surjective (0#32 ++ h)
    refine ⟨0#64, i, (construct_inc 0#64 i).trans (congrArg incOfLow ?_)⟩
    exact (congrArg low32 hi).trans (low32_append _ _)

/-! ### The table of `x` (R67 (e)) -/

theorem construct_inc_high (seed i : Word) : (construct seed i).inc.extractLsb' 32 32 =
    0x5BE0CD19#32 ^^^ ((streamTweak i).extractLsb' 30 2).setWidth 32 := high32_incOfTweak (streamTweak i)

theorem construct_x (seed i : Word) : (construct seed i).x =
    expand32 (0x5BE0CD19#32 ^^^ ((streamTweak i).extractLsb' 30 2).setWidth 32) :=
  congrArg expand32 (construct_inc_high seed i)

theorem expand32_of_tweak_bits : ∀ b : BitVec 2,
    (expand32 (0x5BE0CD19#32 ^^^ b.setWidth 32)).extractLsb' 32 32 = 0x4748A793#32 ∧
    expand32 (0x5BE0CD19#32 ^^^ b.setWidth 32) =
      (if b = 0b00#2 then 0x4748A793EE8DF97C#64
      else if b = 0b01#2 then 0x4748A793CE8E5961#64
      else if b = 0b10#2 then 0x4748A793AE8AB947#64
      else 0x4748A7938E89195A#64) := by decide

end Sys2Proof.Machine

open Sys2Proof Sys2Proof.Machine

/-- Settles O15: increments and the low halves of tweaks correspond one to one, and `x` is read off the table of four
words; the distances and the examples of R67 are evaluated. -/
theorem structureOfIncAndX : Obligations.StructureOfIncAndX := by
  unfold Obligations.StructureOfIncAndX
  refine ⟨fun seed i => ?fields, fun seed i j hlow => ?sameLow, exists_injective_onto_sameInc,
    ⟨incOfLow, incOfLow_injective, exists_construct_inc_iff⟩, ?_, ?_, ?_, ?_, ?_, ?_, ?_, ?_⟩
  case fields =>
    have hlow : (construct seed i).inc.extractLsb' 0 2 = 0b01#2 := construct_inc seed i ▸ incOfLow_bits_low _
    obtain ⟨hxHigh, hx⟩ := expand32_of_tweak_bits ((streamTweak i).extractLsb' 30 2)
    rw [← construct_x seed i] at hxHigh hx
    exact ⟨hlow, toNat_mod_two_of_bits_low hlow, construct_inc seed i ▸ incOfLow_bits_top _,
      construct_inc seed i ▸ incOfLow_bits_mid _, construct_inc_high seed i, hxHigh, hx⟩
  case sameLow =>
    rw [construct_eq, construct_eq, show low32 (streamTweak i) = low32 (streamTweak j) from hlow]
  all_goals decide

end

section
/-! What the commands of the Generator answer (42_generator.md R59, R61, R63, R65, R66): for each the state it completes
with; the refusals are those of `State.withSource`. -/

namespace Sys2Proof.Machine

/-! ### Slots -/

/-- Writing the counter of a valid slot, as a whole state. -/
theorem State.setCtr_of_valid {s : State} {ix : SlotIx} {sl : Slot} (ctr : Word) (hslot : s.slots[ix.toNat]? = some sl)
    (hvalid : sl.valid = true) : s.setCtr ix ctr =
      { s with slots := s.slots.set ix.toNat { gen := { sl.gen with ctr := ctr }, valid := true } } := by
  calc s.setCtr ix ctr
    _ = { s with slots := (s.setCtr ix ctr).slots } := rfl
    _ = _ := by rw [State.setCtr_slots_eq_set ctr hslot, hvalid]

/-- Writing a valid slot with the generator it holds changes nothing. -/
theorem set_valid_slot_self {slots : List Slot} {k : Nat} {sl : Slot} (hslot : slots[k]? = some sl)
    (hvalid : sl.valid = true) : slots.set k { gen := sl.gen, valid := true } = slots := by
  obtain ⟨hk, rfl⟩ := List.getElem?_eq_some_iff.mp hslot
  rw [← hvalid]
  exact List.set_getElem_self hk

/-! ### The commands -/

section Commands

variable {s : State} {d g : SlotIx} {sl : Slot} {sel : SlotField}

theorem execConstruct_in_range (hd : d.toNat < s.slots.length) :
    execConstruct d s = (s.install d (construct s.cmdA s.cmdB)).complete 0#64 :=
  if_pos (State.inRange_iff.mpr hd)

theorem execConstruct_out_of_range (hd : s.slots.length ≤ d.toNat) : execConstruct d s = s.refuse .badSlot :=
  if_neg fun hin => hd.not_gt (State.inRange_iff.mp hin)

theorem execNext_out_of_range (hg : s.slots.length ≤ g.toNat) : execNext g s = s.refuse .badSlot :=
  State.withSource_out_of_range hg

theorem execNext_not_valid (hslot : s.slots[g.toNat]? = some sl) (hvalid : sl.valid = false) :
    execNext g s = s.refuse .uninit :=
  State.withSource_not_valid hslot hvalid

theorem execNext_valid (hslot : s.slots[g.toNat]? = some sl) (hvalid : sl.valid = true) :
    execNext g s = .next { s with
      slots := s.slots.set g.toNat { gen := nextGen sl.gen, valid := true },
      pending := s.pending ++ [{ status := .ok, data := nextOut sl.gen }] } := by
  rw [execNext, State.withSource_valid hslot hvalid, State.setCtr_of_valid _ hslot hvalid]
  rfl

theorem execSkip_out_of_range (hg : s.slots.length ≤ g.toNat) : execSkip g s = s.refuse .badSlot :=
  State.withSource_out_of_range hg

theorem execSkip_not_valid (hslot : s.slots[g.toNat]? = some sl) (hvalid : sl.valid = false) :
    execSkip g s = s.refuse .uninit :=
  State.withSource_not_valid hslot hvalid

theorem execSkip_valid (hslot : s.slots[g.toNat]? = some sl) (hvalid : sl.valid = true) :
    execSkip g s = .next { s with
      slots := s.slots.set g.toNat { gen := skipGen sl.gen s.cmdA, valid := true },
      pending := s.pending ++ [{ status := .ok, data := 0#64 }] } := by
  rw [execSkip, State.withSource_valid hslot hvalid, State.setCtr_of_valid _ hslot hvalid]
  rfl

theorem execSplit_valid (hslot : s.slots[g.toNat]? = some sl) (hvalid : sl.valid = true)
    (hd : d.toNat < s.slots.length) :
    execSplit d g s = .next { s with
      slots := (s.slots.set g.toNat { gen := splitParent sl.gen, valid := true }).set d.toNat
        { gen := splitChild sl.gen, valid := true },
      pending := s.pending ++ [{ status := .ok, data := 0#64 }] } := by
  rw [execSplit, if_pos (State.inRange_iff.mpr hd), State.withSource_valid hslot hvalid,
    State.setCtr_of_valid _ hslot hvalid]
  rfl

/-- Either index out of range is refused alike: the destination's check comes first, the source's is the next. -/
theorem execSplit_out_of_range (h : s.slots.length ≤ g.toNat ∨ s.slots.length ≤ d.toNat) :
    execSplit d g s = s.refuse .badSlot := by
  by_cases hd : d.toNat < s.slots.length
  · have hg : s.slots.length ≤ g.toNat := h.resolve_right hd.not_ge
    rw [execSplit, if_pos (State.inRange_iff.mpr hd), State.withSource_out_of_range hg]
  · exact if_neg (mt State.inRange_iff.mp hd)

theorem execSplit_not_valid (hslot : s.slots[g.toNat]? = some sl) (hvalid : sl.valid = false)
    (hd : d.toNat < s.slots.length) : execSplit d g s = s.refuse .uninit := by
  rw [execSplit, if_pos (State.inRange_iff.mpr hd), State.withSource_not_valid hslot hvalid]

theorem execRdstate_readable (hslot : s.slots[g.toNat]? = some sl) (h : sel = .valid ∨ sl.valid = true) :
    execRdstate sel g s = s.complete (readField sl sel) := by
  simp only [execRdstate, State.slot?_eq, hslot, if_pos h]

theorem execRdstate_not_valid (hslot : s.slots[g.toNat]? = some sl) (hvalid : sl.valid = false)
    (hsel : sel ≠ .valid) : execRdstate sel g s = s.refuse .uninit := by
  have hunreadable : ¬ (sel = .valid ∨ sl.valid = true) := by simp [hsel, hvalid]
  simp only [execRdstate, State.slot?_eq, hslot, if_neg hunreadable]

theorem execRdstate_out_of_range (hg : s.slots.length ≤ g.toNat) : execRdstate sel g s = s.refuse .badSlot := by
  simp only [execRdstate, State.slot?_eq_none_iff.mpr hg]

end Commands

/-! ### Distances of SKIP at the corners (R65) -/

theorem skipGen_allOnes_ctr (p : Gen) : (skipGen p 0xFFFFFFFFFFFFFFFF#64).ctr = p.ctr - p.inc :=
  calc p.ctr + -1#64 * p.inc = p.ctr + -p.inc := congrArg (p.ctr + ·) (neg_one_mul p.inc)
    _ = p.ctr - p.inc := (sub_eq_add_neg _ _).symm

/-- An odd multiple of 2^63 is 2^63 modulo 2^64. -/
theorem mul64_half_of_odd {v : Word} (hodd : v.toNat % 2 = 1) :
    mul64 0x8000000000000000#64 v = 0x8000000000000000#64 := by
  apply BitVec.eq_of_toNat_eq
  rw [toNat_mul64]
  simp only [BitVec.toNat_ofNat]
  omega

theorem skipGen_half_skipGen_half (p : Gen) :
    skipGen (skipGen p 0x8000000000000000#64) 0x8000000000000000#64 = p :=
  (skipGen_skipGen _ _ _).trans (skipGen_zero p)

end Sys2Proof.Machine

namespace Sys2Proof

/-! ### Must-be-zero bits that lie across two fields (30_encoding.md R34) -/

theorem zField_append_selField (w : CmdWord) : zField w ++ selField w = w.extractLsb' 16 8 :=
  BitVec.extractLsb'_append_extractLsb'_eq_extractLsb' (start₂ := 18) (start₁ := 16) (len₁ := 2) rfl

theorem append_dField (w : CmdWord) : w.extractLsb' 16 8 ++ dField w = w.extractLsb' 8 16 :=
  BitVec.extractLsb'_append_extractLsb'_eq_extractLsb' (start₂ := 16) (start₁ := 8) (len₁ := 8) rfl

theorem bits_23_16_eq_zero {w : CmdWord} (hz : zField w = 0#6) (hsel : selField w = 0#2) : w.extractLsb' 16 8 = 0#8 := by
  rw [← zField_append_selField, hz, hsel]
  rfl

theorem bits_23_8_eq_zero {w : CmdWord} (hz : zField w = 0#6) (hsel : selField w = 0#2) (hd : dField w = 0#8) :
    w.extractLsb' 8 16 = 0#16 := by
  rw [← append_dField, bits_23_16_eq_zero hz hsel, hd]
  rfl

end Sys2Proof

open Sys2Proof Sys2Proof.Machine

/-- Settles O27: the slot in range is filled, another refused; `mix` of equal operands is 0, which gives the corner
cases. -/
theorem constructCommandResult : Obligations.ConstructCommandResult := by
  unfold Obligations.ConstructCommandResult
  refine ⟨fun d s hd => execConstruct_in_range hd, fun d s hd => execConstruct_out_of_range hd, fun d => ?word,
    fun w hop hbits => ?illegal, fun _ => mix_self 0#64, fun seed => ?base, by decide⟩
  case word => simp [encode, toNat_packCmd]
  case illegal =>
    refine decode_mustBeZero_of_opField_eq (r := .construct) hop fun hfits => ?_
    obtain ⟨-, hz, hsel, hg⟩ := (rowFits_construct w).mp hfits
    exact hbits.elim (· (bits_23_16_eq_zero hz hsel)) (· hg)
  case base =>
    rw [construct_inc, streamTweak, mix_self]
    decide

/-- Settles O28: a valid slot goes on with `nextGen` and answers `nextOut`; the corner cases are evaluated. -/
theorem nextCommandResult : Obligations.NextCommandResult := by
  unfold Obligations.NextCommandResult
  refine ⟨fun g s sl => execNext_valid, fun g s => execNext_out_of_range, fun g s sl => execNext_not_valid,
    fun g => ?word, fun w hop hbits => ?illegal, ?_, ?_, ?_, ?_, ?_⟩
  case word => simp [encode, toNat_packCmd]
  case illegal =>
    refine decode_mustBeZero_of_opField_eq (r := .next) hop fun hfits => ?_
    obtain ⟨-, hz, hsel, hd⟩ := (rowFits_next w).mp hfits
    exact hbits (bits_23_8_eq_zero hz hsel hd)
  all_goals decide

/-- Settles O29: the child is written after the parent, so it is what a slot holds that is both. -/
theorem splitCommandResult : Obligations.SplitCommandResult := by
  unfold Obligations.SplitCommandResult
  refine ⟨fun d g s sl => execSplit_valid, fun d g s => execSplit_out_of_range, fun d g s sl => execSplit_not_valid,
    fun g s sl hslot hvalid => ?onto, fun d g => ?word, fun w hop hbits => ?illegal, ?_, ?_, ?_, ?_⟩
  case onto =>
    have hg := State.lt_of_slot hslot
    exact ⟨_, execSplit_valid hslot hvalid hg, List.getElem?_set_self (by rwa [List.length_set])⟩
  case word => simp [encode, toNat_packCmd]
  case illegal =>
    refine decode_mustBeZero_of_opField_eq (r := .split) hop fun hfits => ?_
    obtain ⟨-, hz, hsel⟩ := (rowFits_split w).mp hfits
    exact hbits (bits_23_16_eq_zero hz hsel)
  all_goals decide

/-- Settles O30: a valid slot goes on with `skipGen`; distance 0 writes the slot with what it holds. -/
theorem skipCommandResult : Obligations.SkipCommandResult := by
  unfold Obligations.SkipCommandResult
  refine ⟨fun g s sl => execSkip_valid, fun g s => execSkip_out_of_range, fun g s sl => execSkip_not_valid,
    fun g => ?word, fun w hop hbits => ?illegal,
    fun g s sl hslot hvalid hzero => ?zero, skipGen_allOnes_ctr,
    fun p hodd => ⟨congrArg (p.ctr + ·) (mul64_half_of_odd hodd), skipGen_half_skipGen_half p⟩, by decide⟩
  case word => simp [encode, toNat_packCmd]
  case illegal =>
    refine decode_mustBeZero_of_opField_eq (r := .skip) hop fun hfits => ?_
    obtain ⟨-, hz, hsel, hd⟩ := (rowFits_skip w).mp hfits
    exact hbits (bits_23_8_eq_zero hz hsel hd)
  case zero =>
    refine (execSkip_valid hslot hvalid).trans ?_
    rw [hzero, skipGen_zero, set_valid_slot_self hslot hvalid]

/-- Settles O31: a readable field is answered; the refusals are by range and by validity. -/
theorem rdstateCommandResult : Obligations.RdstateCommandResult := by
  unfold Obligations.RdstateCommandResult
  refine ⟨fun g s sl hslot => execRdstate_readable hslot (.inl rfl), fun g s sl hslot hvalid => ?fields,
    fun sel g s => execRdstate_out_of_range, fun sel g s sl => execRdstate_not_valid, fun g => ?words,
    fun w hop hbits => ?illegal, by decide⟩
  case fields =>
    exact ⟨execRdstate_readable hslot (.inr hvalid), execRdstate_readable hslot (.inr hvalid),
      execRdstate_readable hslot (.inr hvalid)⟩
  case words => simp [encode, toNat_packCmd, selOfField]
  case illegal =>
    refine decode_mustBeZero_of_opField_eq (r := .rdstate) hop fun hfits => ?_
    obtain ⟨-, hz, hd⟩ := (rowFits_rdstate w).mp hfits
    exact hbits.elim (· hz) (· hd)

end

section
/-! Equal generators (42_generator.md R70). What NEXT, SKIP and SPLIT do to their source slot, and what they answer, are
functions of that slot's content alone. So over a run both are functions of the content at its start, whatever the index
and the rest of the block. -/

namespace Sys2Proof.Machine

/-! ### An operation as a function of its slot's content -/

/-- The generator after an operation. -/
def SlotOp.advance (p : Gen) : SlotOp → Gen
  | .next => nextGen p
  | .skip distance => skipGen p distance
  | .splitTo _ => splitParent p

/-- The data an operation answers. -/
def SlotOp.output (p : Gen) : SlotOp → Word
  | .next => nextOut p
  | .skip _ => 0#64
  | .splitTo _ => 0#64

/-- The slot after an operation: one that is not valid is refused and stays. -/
def SlotOp.after (sl : Slot) (op : SlotOp) : Slot :=
  if sl.valid then { gen := op.advance sl.gen, valid := true } else sl

/-- The response to an operation. -/
def SlotOp.answer (sl : Slot) (op : SlotOp) : Response :=
  if sl.valid then { status := .ok, data := op.output sl.gen } else { status := .uninit, data := 0#64 }

/-- The responses to a list of operations, in order. -/
def SlotOp.answers : Slot → List SlotOp → List Response
  | _, [] => []
  | sl, op :: ops => op.answer sl :: answers (op.after sl) ops

theorem SlotOp.length_answers (sl : Slot) (ops : List SlotOp) : (SlotOp.answers sl ops).length = ops.length := by
  induction ops generalizing sl with
  | nil => rfl
  | cons op ops ih => rw [SlotOp.answers, List.length_cons, List.length_cons, ih]

/-- The command of an operation on slot `ix`. -/
def SlotOp.instr (ix : SlotIx) : SlotOp → Instr
  | .next => .next ix
  | .skip _ => .skip ix
  | .splitTo d => .split d ix

/-- What an operation has on the bus `cmd_a`. -/
def SlotOp.busA : SlotOp → Word
  | .next => 0#64
  | .skip distance => distance
  | .splitTo _ => 0#64

theorem SlotOp.event_eq (ix : SlotIx) (op : SlotOp) :
    op.event ix = .command (encode (op.instr ix)) op.busA 0#64 := by
  cases op <;> rfl

/-- An operation leaves its slot to be the source: its destination, if it has one, is another slot that exists. -/
def SlotOp.SplitsElsewhere (ngen : Nat) (ix : SlotIx) (op : SlotOp) : Prop :=
  ∀ d, op = .splitTo d → d ≠ ix ∧ d.toNat < ngen

/-! ### What the block does -/

/-- Slot `ix` of a block with `ngen` slots holds `sl`, valid or not; the host goes on with `host`; `pending` has not been
taken. -/
structure State.Shows (s : State) (ngen : Nat) (host : List HostEvent) (ix : SlotIx) (sl : Slot)
    (pending : List Response) : Prop where
  ngen_eq : s.slots.length = ngen
  host_eq : s.host = host
  slot_eq : s.slots[ix.toNat]? = some sl
  pending_eq : s.pending = pending

section Shows

variable {s : State} {ngen : Nat} {host : List HostEvent} {ix : SlotIx} {sl : Slot} {pending : List Response}

/-- A refused operation adds its response. -/
theorem State.Shows.exec_not_valid (h : s.Shows ngen host ix sl pending) (hvalid : sl.valid = false) {op : SlotOp}
    (hop : op.SplitsElsewhere ngen ix) :
    exec (op.instr ix) s = .next { s with pending := s.pending ++ [{ status := .uninit, data := 0#64 }] } := by
  cases op with
  | next => exact execNext_not_valid h.slot_eq hvalid
  | skip distance => exact execSkip_not_valid h.slot_eq hvalid
  | splitTo d =>
    obtain ⟨-, hd⟩ := hop d rfl
    exact execSplit_not_valid h.slot_eq hvalid (h.ngen_eq ▸ hd)

/-- A completed operation advances the slot's generator and answers its output; what else it changes is in another
slot. -/
theorem State.Shows.exec_valid (h : s.Shows ngen host ix sl pending) (hvalid : sl.valid = true) {op : SlotOp}
    (hbus : s.cmdA = op.busA) (hop : op.SplitsElsewhere ngen ix) :
    ∃ slots, exec (op.instr ix) s =
        .next { s with slots := slots, pending := s.pending ++ [{ status := .ok, data := op.output sl.gen }] } ∧
      slots.length = ngen ∧ slots[ix.toNat]? = some { gen := op.advance sl.gen, valid := true } := by
  have hlt := State.lt_of_slot h.slot_eq
  cases op with
  | next => exact ⟨_, execNext_valid h.slot_eq hvalid, by rw [List.length_set, h.ngen_eq], List.getElem?_set_self hlt⟩
  | skip distance =>
    have hslot : skipGen sl.gen s.cmdA = skipGen sl.gen distance := congrArg (skipGen sl.gen) hbus
    exact ⟨_, execSkip_valid h.slot_eq hvalid, by rw [List.length_set, h.ngen_eq],
      hslot ▸ List.getElem?_set_self hlt⟩
  | splitTo d =>
    obtain ⟨hne, hd⟩ := hop d rfl
    refine ⟨_, execSplit_valid h.slot_eq hvalid (h.ngen_eq ▸ hd),
      by rw [List.length_set, List.length_set, h.ngen_eq], ?_⟩
    rw [List.getElem?_set_ne (BitVec.toNat_ne_iff_ne.mpr hne)]
    exact List.getElem?_set_self hlt

theorem State.Shows.exec (h : s.Shows ngen host ix sl pending) {op : SlotOp} (hbus : s.cmdA = op.busA)
    (hop : op.SplitsElsewhere ngen ix) :
    ∃ t, exec (op.instr ix) s = .next t ∧ t.Shows ngen host ix (op.after sl) (pending ++ [op.answer sl]) := by
  unfold SlotOp.after SlotOp.answer
  cases hvalid : sl.valid with
  | false => exact ⟨_, h.exec_not_valid hvalid hop, h.ngen_eq, h.host_eq, h.slot_eq, congrArg (· ++ _) h.pending_eq⟩
  | true =>
    obtain ⟨slots, hexec, hlength, hslot⟩ := h.exec_valid hvalid hbus hop
    exact ⟨_, hexec, hlength, h.host_eq, hslot, congrArg (· ++ _) h.pending_eq⟩

theorem State.Shows.step {op : SlotOp} {rest : List HostEvent} (h : s.Shows ngen (op.event ix :: rest) ix sl pending)
    (hop : op.SplitsElsewhere ngen ix) :
    ∃ t, step s = .next t ∧ t.Shows ngen rest ix (op.after sl) (pending ++ [op.answer sl]) := by
  have hhost := h.host_eq
  rw [SlotOp.event_eq] at hhost
  rw [step_of_run (State.fetch_command hhost (decode_encode _))]
  have hpresent : (s.present op.busA 0#64 rest).Shows ngen rest ix sl pending :=
    ⟨h.ngen_eq, rfl, h.slot_eq, h.pending_eq⟩
  exact hpresent.exec rfl hop

end Shows

theorem State.Shows.run {ops : List SlotOp} {s : State} {ngen : Nat} {ix : SlotIx} {sl : Slot}
    {pending : List Response} (h : s.Shows ngen (ops.map (SlotOp.event ix)) ix sl pending)
    (hops : ∀ op ∈ ops, op.SplitsElsewhere ngen ix) :
    ∃ t : State, Sys2Proof.core.run ops.length s = .next t ∧
      t.Shows ngen [] ix (ops.foldl SlotOp.after sl) (pending ++ SlotOp.answers sl ops) := by
  induction ops generalizing s sl pending with
  | nil => exact ⟨s, rfl, by simpa [SlotOp.answers] using h⟩
  | cons op ops ih =>
    obtain ⟨hop, hrest⟩ := List.forall_mem_cons.mp hops
    obtain ⟨u, hstep, hu⟩ := h.step hop
    obtain ⟨t, hrun, ht⟩ := ih hu hrest
    refine ⟨t, (run_succ_of_step Sys2Proof.core ops.length s u hstep).trans hrun, ?_⟩
    rwa [List.append_assoc, List.singleton_append] at ht

end Sys2Proof.Machine

open Sys2Proof Sys2Proof.Machine

/-- Settles O54: both slots go through the same contents and give the same answers, which depend on the content at the start
and the operations alone. -/
theorem equalGeneratorsBehaveEqually : Obligations.EqualGeneratorsBehaveEqually := by
  unfold Obligations.EqualGeneratorsBehaveEqually
  refine ⟨fun s t i j hi hj ha hb => ?construct, fun ops s t i j sl hs ht hsplit hsHost htHost => ?run⟩
  case construct =>
    obtain ⟨s', hs, hsSlot⟩ := execConstruct_slot hi
    obtain ⟨t', ht, htSlot⟩ := execConstruct_slot hj
    exact ⟨s', t', hs, ht, by rw [hsSlot, htSlot, ha, hb]⟩
  case run =>
    have hsShows : s.Shows s.slots.length (ops.map (SlotOp.event i)) i sl s.pending := ⟨rfl, hsHost, hs, rfl⟩
    have htShows : t.Shows t.slots.length (ops.map (SlotOp.event j)) j sl t.pending := ⟨rfl, htHost, ht, rfl⟩
    obtain ⟨s', hsRun, hs'⟩ := hsShows.run fun op hop d hd =>
      have ⟨hne, _, hlt, _⟩ := hsplit d (hd ▸ hop)
      ⟨hne, hlt⟩
    obtain ⟨t', htRun, ht'⟩ := htShows.run fun op hop d hd =>
      have ⟨_, hne, _, hlt⟩ := hsplit d (hd ▸ hop)
      ⟨hne, hlt⟩
    exact ⟨s', t', hsRun, htRun, hs'.slot_eq.trans ht'.slot_eq.symm, SlotOp.answers sl ops,
      SlotOp.length_answers sl ops, hs'.pending_eq, ht'.pending_eq⟩

end

section
/-! The checks and the responses (60_exceptions.md R75 to R78). `State.dueStatus` says which of the checks a command fails
first; `exec` then refuses it with that status, or completes it. -/

namespace Sys2Proof

open Sys2Proof.Machine

/-! ### The checks that `State.dueStatus` makes -/

theorem Instr.wellFormed_iff {ngen : Nat} {i : Instr} :
    i.wellFormed ngen = true ↔ ∀ ix ∈ i.indices, ix.toNat < ngen := by
  simp [Instr.wellFormed]

theorem Instr.wellFormed_eq_false_iff {ngen : Nat} {i : Instr} :
    i.wellFormed ngen = false ↔ ∃ ix ∈ i.indices, ngen ≤ ix.toNat := by
  simp [Instr.wellFormed]

/-- The slot a command needs a generator in is one of those it uses. -/
theorem Instr.source?_mem_indices {i : Instr} {g : SlotIx} (h : i.source? = some g) : g ∈ i.indices := by
  cases i with
  | next | split | skip => cases h; simp [Instr.indices]
  | rdstate sel => cases sel <;> cases h <;> exact List.mem_singleton_self g
  | construct | mix | expand16 | expand32 => cases h

end Sys2Proof

namespace Sys2Proof.Machine

section Checks

variable {s : State} {i : Instr} {g : SlotIx}

theorem State.dueStatus_of_out_of_range (h : ∃ ix ∈ i.indices, s.slots.length ≤ ix.toNat) :
    s.dueStatus i = .badSlot :=
  if_pos (Instr.wellFormed_eq_false_iff.mpr h)

theorem State.dueStatus_of_not_valid (hrange : ∀ ix ∈ i.indices, ix.toNat < s.slots.length)
    (hsource : i.source? = some g) (hvalid : s.isValid g = false) : s.dueStatus i = .uninit := by
  simp [State.dueStatus, Instr.wellFormed_iff.mpr hrange, hsource, hvalid]

theorem State.dueStatus_of_checked (hrange : ∀ ix ∈ i.indices, ix.toNat < s.slots.length)
    (hvalid : ∀ g, i.source? = some g → s.isValid g = true) : s.dueStatus i = .ok := by
  cases hsource : i.source? with
  | none => simp [State.dueStatus, Instr.wellFormed_iff.mpr hrange, hsource]
  | some g => simp [State.dueStatus, Instr.wellFormed_iff.mpr hrange, hsource, hvalid g hsource]

/-- An index out of range, a source slot that is not valid, or neither: there is no fourth case. -/
theorem State.check_cases (s : State) (i : Instr) :
    (∃ ix ∈ i.indices, s.slots.length ≤ ix.toNat) ∨
    ((∀ ix ∈ i.indices, ix.toNat < s.slots.length) ∧ ∃ g, i.source? = some g ∧ s.isValid g = false) ∨
    ((∀ ix ∈ i.indices, ix.toNat < s.slots.length) ∧ ∀ g, i.source? = some g → s.isValid g = true) := by
  by_cases hrange : ∀ ix ∈ i.indices, ix.toNat < s.slots.length
  · by_cases hvalid : ∀ g, i.source? = some g → s.isValid g = true
    · exact .inr (.inr ⟨hrange, hvalid⟩)
    · exact .inr (.inl ⟨hrange, by simpa using hvalid⟩)
  · exact .inl (by simpa using hrange)

theorem State.dueStatus_eq_badSlot_iff :
    s.dueStatus i = .badSlot ↔ ∃ ix ∈ i.indices, s.slots.length ≤ ix.toNat := by
  refine ⟨fun hdue => ?_, State.dueStatus_of_out_of_range⟩
  rcases s.check_cases i with hout | ⟨hrange, g, hsource, hvalid⟩ | ⟨hrange, hvalid⟩
  · exact hout
  · cases hdue.symm.trans (State.dueStatus_of_not_valid hrange hsource hvalid)
  · cases hdue.symm.trans (State.dueStatus_of_checked hrange hvalid)

theorem State.dueStatus_eq_uninit_iff : s.dueStatus i = .uninit ↔
    (∀ ix ∈ i.indices, ix.toNat < s.slots.length) ∧ ∃ g, i.source? = some g ∧ s.isValid g = false := by
  refine ⟨fun hdue => ?_, fun ⟨hrange, _, hsource, hvalid⟩ => State.dueStatus_of_not_valid hrange hsource hvalid⟩
  rcases s.check_cases i with hout | hnotValid | ⟨hrange, hvalid⟩
  · cases hdue.symm.trans (State.dueStatus_of_out_of_range hout)
  · exact hnotValid
  · cases hdue.symm.trans (State.dueStatus_of_checked hrange hvalid)

theorem State.dueStatus_eq_ok_iff : s.dueStatus i = .ok ↔
    (∀ ix ∈ i.indices, ix.toNat < s.slots.length) ∧ ∀ g, i.source? = some g → s.isValid g = true := by
  refine ⟨fun hdue => ?_, fun ⟨hrange, hvalid⟩ => State.dueStatus_of_checked hrange hvalid⟩
  rcases s.check_cases i with hout | ⟨hrange, g, hsource, hvalid⟩ | hchecked
  · cases hdue.symm.trans (State.dueStatus_of_out_of_range hout)
  · cases hdue.symm.trans (State.dueStatus_of_not_valid hrange hsource hvalid)
  · exact hchecked

/-- A decoded command is never illegal. -/
theorem State.dueStatus_ne_illegal (s : State) (i : Instr) : s.dueStatus i ≠ .illegal := by
  rcases s.check_cases i with hout | ⟨hrange, g, hsource, hvalid⟩ | ⟨hrange, hvalid⟩
  · simp [State.dueStatus_of_out_of_range hout]
  · simp [State.dueStatus_of_not_valid hrange hsource hvalid]
  · simp [State.dueStatus_of_checked hrange hvalid]

/-- A slot in range is not valid exactly when its `valid` bit is clear. -/
theorem State.isValid_eq_false_iff (hg : g.toNat < s.slots.length) :
    s.isValid g = false ↔ ∃ sl, s.slots[g.toNat]? = some sl ∧ sl.valid = false := by
  obtain ⟨sl, hslot⟩ := State.exists_slot hg
  rw [State.slot?_eq] at hslot
  simp [State.isValid_of_slot hslot, hslot]

theorem State.dueForWord_of_command {w : CmdWord} (hw : decode w = .command i) : s.dueForWord w = s.dueStatus i := by
  simp only [State.dueForWord, hw]

theorem State.dueForWord_of_illegal {w : CmdWord} {why : IllegalCause} (hw : decode w = .illegal why) :
    s.dueForWord w = .illegal := by
  simp only [State.dueForWord, hw]

theorem State.dueForWord_eq_illegal_iff {w : CmdWord} :
    s.dueForWord w = .illegal ↔ ∃ why, decode w = .illegal why := by
  cases hw : decode w with
  | command i => simp [State.dueForWord_of_command hw, s.dueStatus_ne_illegal i]
  | illegal why => simp [State.dueForWord_of_illegal hw]

end Checks

/-! ### `exec` by the checks -/

section Exec

variable {s : State} {i : Instr} {g : SlotIx}

theorem exec_out_of_range (h : ∃ ix ∈ i.indices, s.slots.length ≤ ix.toNat) : exec i s = s.refuse .badSlot := by
  obtain ⟨ix, hmem, hix⟩ := h
  cases i with
  | construct d => exact execConstruct_out_of_range (List.mem_singleton.mp hmem ▸ hix)
  | next g => exact execNext_out_of_range (List.mem_singleton.mp hmem ▸ hix)
  | split d g =>
    refine execSplit_out_of_range ?_
    rcases List.mem_pair.mp hmem with rfl | rfl
    · exact .inr hix
    · exact .inl hix
  | skip g => exact execSkip_out_of_range (List.mem_singleton.mp hmem ▸ hix)
  | rdstate sel g => exact execRdstate_out_of_range (List.mem_singleton.mp hmem ▸ hix)
  | mix | expand16 | expand32 => exact absurd hmem List.not_mem_nil

theorem exec_not_valid (hrange : ∀ ix ∈ i.indices, ix.toNat < s.slots.length) (hsource : i.source? = some g)
    (hvalid : s.isValid g = false) : exec i s = s.refuse .uninit := by
  obtain ⟨sl, hslot, hclear⟩ :=
    (State.isValid_eq_false_iff (hrange g (Instr.source?_mem_indices hsource))).mp hvalid
  cases i with
  | next => cases hsource; exact execNext_not_valid hslot hclear
  | split d =>
    cases hsource
    exact execSplit_not_valid hslot hclear (hrange d List.mem_cons_self)
  | skip => cases hsource; exact execSkip_not_valid hslot hclear
  | rdstate sel => cases sel <;> cases hsource <;> exact execRdstate_not_valid hslot hclear (by decide)
  | construct | mix | expand16 | expand32 => cases hsource

theorem exec_checked (hrange : ∀ ix ∈ i.indices, ix.toNat < s.slots.length)
    (hvalid : ∀ g, i.source? = some g → s.isValid g = true) :
    ∃ t data, exec i s = .next t ∧ t.pending = s.pending ++ [{ status := .ok, data := data }] := by
  cases i with
  | construct d => exact ⟨_, _, execConstruct_in_range (hrange d List.mem_cons_self), rfl⟩
  | next g =>
    obtain ⟨sl, hslot, hset⟩ := State.isValid_iff.mp (hvalid g rfl)
    exact ⟨_, _, execNext_valid hslot hset, rfl⟩
  | split d g =>
    obtain ⟨sl, hslot, hset⟩ := State.isValid_iff.mp (hvalid g rfl)
    exact ⟨_, _, execSplit_valid hslot hset (hrange d List.mem_cons_self), rfl⟩
  | skip g =>
    obtain ⟨sl, hslot, hset⟩ := State.isValid_iff.mp (hvalid g rfl)
    exact ⟨_, _, execSkip_valid hslot hset, rfl⟩
  | rdstate sel g =>
    obtain ⟨sl, hslot⟩ := State.exists_slot (hrange g List.mem_cons_self)
    have hreadable : sel = .valid ∨ sl.valid = true := by
      rw [← State.isValid_of_slot hslot]
      cases sel with
      | valid => exact .inl rfl
      | x | inc | ctr => exact .inr (hvalid g rfl)
    exact ⟨_, _, execRdstate_readable hslot hreadable, rfl⟩
  | mix | expand16 | expand32 => exact ⟨_, _, rfl, rfl⟩

/-- A command that is not due OK is refused with the status it is due. -/
theorem exec_refused (h : s.dueStatus i ≠ .ok) : exec i s = s.refuse (s.dueStatus i) := by
  rcases s.check_cases i with hout | ⟨hrange, g, hsource, hvalid⟩ | ⟨hrange, hvalid⟩
  · rw [State.dueStatus_of_out_of_range hout, exec_out_of_range hout]
  · rw [State.dueStatus_of_not_valid hrange hsource hvalid, exec_not_valid hrange hsource hvalid]
  · exact absurd (State.dueStatus_of_checked hrange hvalid) h

/-- A command is answered with one response, of the status it is due. -/
theorem exec_answers_dueStatus (i : Instr) (s : State) :
    ∃ t data, exec i s = .next t ∧ t.pending = s.pending ++ [{ status := s.dueStatus i, data := data }] := by
  by_cases hok : s.dueStatus i = .ok
  · obtain ⟨hrange, hvalid⟩ := State.dueStatus_eq_ok_iff.mp hok
    rw [hok]
    exact exec_checked hrange hvalid
  · exact ⟨_, _, exec_refused hok, rfl⟩

/-- A presented word is answered with one response, of the status it is due; presenting it changes nothing the checks
read. -/
theorem step_answers_dueForWord {w : CmdWord} {a b : Word} {rest : List HostEvent}
    (hhost : s.host = .command w a b :: rest) :
    ∃ t data, step s = .next t ∧ t.pending = s.pending ++ [{ status := s.dueForWord w, data := data }] := by
  cases hw : decode w with
  | command i =>
    rw [step_of_run (State.fetch_command hhost hw), State.dueForWord_of_command hw]
    exact exec_answers_dueStatus i (s.present a b rest)
  | illegal why =>
    rw [State.dueForWord_of_illegal hw]
    exact ⟨_, _, step_of_settled (State.fetch_illegal hhost hw), rfl⟩

end Exec

/-- A command reads the slot file and the buses alone: not the response queue, nor anything else of the state. -/
theorem actsAlikeOn_exec {P : State → Prop} {slots : List Slot} {a b : Word} (hP : ∀ u, P u → u.slots = slots)
    (ha : ∀ u, P u → u.cmdA = a) (hb : ∀ u, P u → u.cmdB = b) (i : Instr) : ActsAlikeOn P (exec i) := by
  cases i with
  | construct d =>
    by_cases hd : d.toNat < slots.length
    · refine (actsAlikeOn_respond hP (·.set d.toNat { gen := construct a b, valid := true }) .ok 0#64).congr
        fun u hu => ?_
      rw [← ha u hu, ← hb u hu]
      exact execConstruct_in_range ((hP u hu).symm ▸ hd)
    · refine (actsAlikeOn_refuse hP .badSlot).congr fun u hu => execConstruct_out_of_range ?_
      rwa [hP u hu, ← not_lt]
  | next g => exact actsAlikeOn_execNext hP g
  | split d g => exact actsAlikeOn_execSplit hP d g
  | skip g => exact actsAlikeOn_execSkip hP ha g
  | rdstate sel g => exact actsAlikeOn_execRdstate hP sel g
  | mix => exact (actsAlikeOn_complete hP (mix a b)).congr fun u hu => by rw [← ha u hu, ← hb u hu]; rfl
  | expand16 =>
    exact (actsAlikeOn_complete hP (zext64 (expand16 (low16 a)))).congr fun u hu => by rw [← ha u hu]; rfl
  | expand32 => exact (actsAlikeOn_complete hP (expand32 (low32 a))).congr fun u hu => by rw [← ha u hu]; rfl

end Sys2Proof.Machine

open Sys2Proof Sys2Proof.Machine

/-- Settles O36: each command that passes the checks completes. -/
theorem checkedCommandsComplete : Obligations.CheckedCommandsComplete := by
  unfold Obligations.CheckedCommandsComplete
  exact fun i s => exec_checked

/-- Settles O37: the response has the status that is due, and each status is due in its case alone. -/
theorem refusedInExactlyThreeCases : Obligations.RefusedInExactlyThreeCases := by
  unfold Obligations.RefusedInExactlyThreeCases
  refine ⟨fun s w a b rest hhost => ?word, fun i s => ?command, fun s g => ?rdstateValid⟩
  case word =>
    obtain ⟨t, data, hstep, hpending⟩ := step_answers_dueForWord hhost
    exact ⟨t, _, hstep, hpending, State.dueForWord_eq_illegal_iff⟩
  case command =>
    obtain ⟨t, data, hexec, hpending⟩ := exec_answers_dueStatus i s
    refine ⟨t, _, hexec, hpending, s.dueStatus_ne_illegal i, State.dueStatus_eq_badSlot_iff, ?uninit,
      fun hngen hdue => ?allSlots⟩
    case uninit =>
      rw [State.dueStatus_eq_uninit_iff]
      refine and_congr_right fun hrange => exists_congr fun g => ?_
      rw [exists_and_left]
      exact and_congr_right fun hsource =>
        State.isValid_eq_false_iff (hrange g (Instr.source?_mem_indices hsource))
    case allSlots =>
      obtain ⟨ix, -, hix⟩ := State.dueStatus_eq_badSlot_iff.mp hdue
      exact absurd ix.isLt (hngen ▸ hix).not_gt
  case rdstateValid =>
    obtain ⟨t, data, hexec, hpending⟩ := exec_answers_dueStatus (.rdstate .valid g) s
    refine ⟨t, _, hexec, hpending, fun hdue => ?_⟩
    obtain ⟨-, g', hsource, -⟩ := State.dueStatus_eq_uninit_iff.mp hdue
    cases hsource

/-- Settles O38: a word is answered with the status it is due, which is that of the first check it fails. -/
theorem checksInOrder : Obligations.ChecksInOrder := by
  unfold Obligations.ChecksInOrder
  refine ⟨fun s w a b rest => step_answers_dueForWord, fun s w why => State.dueForWord_of_illegal,
    fun s w i hw => ?command, by decide, by decide, by decide⟩
  rw [State.dueForWord_of_command hw]
  exact ⟨State.dueStatus_of_out_of_range,
    fun hrange ⟨g, hsource, hvalid⟩ => State.dueStatus_of_not_valid hrange hsource hvalid, State.dueStatus_of_checked⟩

/-- Settles O39: a refusal adds its response and nothing else; what a command does is the same whatever responses wait. -/
theorem refusalsLeaveNoTrace : Obligations.RefusalsLeaveNoTrace := by
  unfold Obligations.RefusalsLeaveNoTrace
  refine ⟨fun i s => exec_refused, fun s w a b rest why hhost hw => ?illegal, fun i s => ?queue⟩
  case illegal => exact ⟨_, step_of_settled (State.fetch_illegal hhost hw), rfl, rfl, rfl, rfl⟩
  case queue =>
    obtain ⟨slots, r, hnext⟩ :=
      actsAlikeOn_exec (P := fun u => ∃ q, u = { s with pending := q }) (slots := s.slots) (a := s.cmdA) (b := s.cmdB)
        (fun _ ⟨_, hu⟩ => hu ▸ rfl) (fun _ ⟨_, hu⟩ => hu ▸ rfl) (fun _ ⟨_, hu⟩ => hu ▸ rfl) i
    exact ⟨_, r, hnext s ⟨s.pending, rfl⟩, rfl, fun q => hnext { s with pending := q } ⟨q, rfl⟩⟩

end

section
/-! What one command can do (10_state.md R11): to each slot, to the response queue, and nothing else. It keeps a slot,
advances the counter of its source, or begins a generator in its destination; the frames of the commands and the invariant
follow from that. -/

namespace Sys2Proof.Machine

/-- `construct` makes constructed generators (42_generator.md R67). -/
theorem construct_constructed (seed streamIndex : Word) : (construct seed streamIndex).Constructed :=
  ⟨construct_inc seed streamIndex ▸ incOfLow_bits_low _, construct_inc seed streamIndex ▸ incOfLow_bits_top _, rfl⟩

/-! ### What a command can make of the slot file -/

/-- What a command can make of the content of slot `k`. -/
inductive Slot.Becomes (i : Instr) (k : Nat) (sl : Slot) : Slot → Prop where
  | kept : Slot.Becomes i k sl sl
  | advanced {g : SlotIx} (hsource : i.source? = some g) (hk : g.toNat = k) (hvalid : sl.valid = true) (ctr : Word) :
      Slot.Becomes i k sl { gen := { sl.gen with ctr := ctr }, valid := true }
  | begun {d : SlotIx} (hdest : i.dest? = some d) (hk : d.toNat = k) (seed streamIndex : Word) :
      Slot.Becomes i k sl { gen := construct seed streamIndex, valid := true }

/-- What a command can make of the slot file: no slot comes or goes, and each becomes what it can become. -/
structure SlotsBecome (i : Instr) (slots slots' : List Slot) : Prop where
  length_eq : slots'.length = slots.length
  becomes : ∀ (k : Nat) (sl : Slot), slots[k]? = some sl → ∃ sl', slots'[k]? = some sl' ∧ sl.Becomes i k sl'

section SlotsBecome

variable {i : Instr} {slots slots' : List Slot} {k : Nat} {d g : SlotIx} {sl sl' : Slot}

theorem SlotsBecome.refl (i : Instr) (slots : List Slot) : SlotsBecome i slots slots :=
  ⟨rfl, fun _ sl hsl => ⟨sl, hsl, .kept⟩⟩

theorem SlotsBecome.set_advanced (hsource : i.source? = some g) (hslot : slots[g.toNat]? = some sl)
    (hvalid : sl.valid = true) (ctr : Word) :
    SlotsBecome i slots (slots.set g.toNat { gen := { sl.gen with ctr := ctr }, valid := true }) := by
  refine ⟨List.length_set, fun k sl' hk => ?_⟩
  obtain ⟨hlt, -⟩ := List.getElem?_eq_some_iff.mp hk
  by_cases hgk : g.toNat = k
  · subst hgk
    obtain rfl : sl = sl' := Option.some.inj (hslot.symm.trans hk)
    exact ⟨_, List.getElem?_set_self hlt, .advanced hsource rfl hvalid ctr⟩
  · exact ⟨sl', (List.getElem?_set_ne hgk).trans hk, .kept⟩

/-- A generator may begin in the destination whatever was done before. -/
theorem SlotsBecome.set_begun (h : SlotsBecome i slots slots') (hdest : i.dest? = some d) (seed streamIndex : Word) :
    SlotsBecome i slots (slots'.set d.toNat { gen := construct seed streamIndex, valid := true }) := by
  refine ⟨List.length_set.trans h.length_eq, fun k sl hk => ?_⟩
  obtain ⟨sl', hk', hbecomes⟩ := h.becomes k sl hk
  obtain ⟨hlt, -⟩ := List.getElem?_eq_some_iff.mp hk'
  by_cases hdk : d.toNat = k
  · subst hdk
    exact ⟨_, List.getElem?_set_self hlt, .begun hdest rfl seed streamIndex⟩
  · exact ⟨sl', (List.getElem?_set_ne hdk).trans hk', hbecomes⟩

/-- What a slot was that is there afterwards. -/
theorem SlotsBecome.exists_before (h : SlotsBecome i slots slots') (hk : slots'[k]? = some sl') :
    ∃ sl, slots[k]? = some sl ∧ sl.Becomes i k sl' := by
  obtain ⟨hlt, -⟩ := List.getElem?_eq_some_iff.mp hk
  have hslot : slots[k]? = some (slots[k]'(h.length_eq ▸ hlt)) := List.getElem?_eq_getElem _
  obtain ⟨sl'', hk'', hbecomes⟩ := h.becomes k _ hslot
  obtain rfl : sl'' = sl' := Option.some.inj (hk''.symm.trans hk)
  exact ⟨_, hslot, hbecomes⟩

/-- A slot that is neither source nor destination is kept. -/
theorem SlotsBecome.slot_of_ne (h : SlotsBecome i slots slots') (hsource : ∀ g, i.source? = some g → g.toNat ≠ k)
    (hdest : ∀ d, i.dest? = some d → d.toNat ≠ k) : slots'[k]? = slots[k]? := by
  cases hk : slots[k]? with
  | none => rwa [List.getElem?_eq_none_iff, h.length_eq, ← List.getElem?_eq_none_iff]
  | some sl =>
    obtain ⟨sl', hk', hbecomes⟩ := h.becomes k sl hk
    cases hbecomes with
    | kept => exact hk'
    | advanced hg hgk => exact absurd hgk (hsource _ hg)
    | begun hd hdk => exact absurd hdk (hdest _ hd)

/-- Of a slot that is not the destination only the counter may change. -/
theorem SlotsBecome.slot_of_not_dest (h : SlotsBecome i slots slots') (hdest : ∀ d, i.dest? = some d → d.toNat ≠ k)
    (hk : slots[k]? = some sl) : ∃ ctr : Word,
      slots'[k]? = some { gen := { x := sl.gen.x, inc := sl.gen.inc, ctr := ctr }, valid := sl.valid } := by
  obtain ⟨sl', hk', hbecomes⟩ := h.becomes k sl hk
  cases hbecomes with
  | kept => exact ⟨sl.gen.ctr, hk'⟩
  | advanced _ _ hvalid ctr => exact ⟨ctr, hvalid ▸ hk'⟩
  | begun hd hdk => exact absurd hdk (hdest _ hd)

/-- A valid slot stays valid. -/
theorem SlotsBecome.valid (h : SlotsBecome i slots slots') (hk : slots[k]? = some sl) (hvalid : sl.valid = true) :
    ∃ sl', slots'[k]? = some sl' ∧ sl'.valid = true := by
  obtain ⟨sl', hk', hbecomes⟩ := h.becomes k sl hk
  refine ⟨sl', hk', ?_⟩
  cases hbecomes with
  | kept => exact hvalid
  | advanced | begun => rfl

/-- Advancing leaves `x` and `inc`, and what begins is constructed, so valid slots go on holding constructed generators. -/
theorem SlotsBecome.constructed (h : SlotsBecome i slots slots')
    (hslots : ∀ sl ∈ slots, sl.valid = true → sl.gen.Constructed) :
    ∀ sl ∈ slots', sl.valid = true → sl.gen.Constructed := by
  intro sl' hmem hvalid'
  obtain ⟨k, hk'⟩ := List.mem_iff_getElem?.mp hmem
  obtain ⟨sl, hk, hbecomes⟩ := h.exists_before hk'
  have hsl := hslots sl (List.mem_of_getElem? hk)
  cases hbecomes with
  | kept => exact hsl hvalid'
  | advanced _ _ hvalid => exact hsl hvalid
  | begun _ _ seed streamIndex => exact construct_constructed seed streamIndex

end SlotsBecome

/-! ### What a command does -/

/-- The slot file and the response that a command leaves in state `s`: a refusal keeps the slot file, a completion begins
a generator in the destination, and the data is 0 without OK or without a result (30_encoding.md R39). -/
structure State.Effect (s : State) (i : Instr) (slots : List Slot) (r : Response) : Prop where
  become : SlotsBecome i s.slots slots
  refused : s.dueStatus i ≠ .ok → slots = s.slots
  begins : s.dueStatus i = .ok → ∀ d, i.dest? = some d → ∃ p, slots[d.toNat]? = some { gen := p, valid := true }
  status_eq : r.status = s.dueStatus i
  data_eq : r.status ≠ .ok ∨ i.hasResult = false → r.data = 0#64

/-- A command that is due OK and begins no generator. -/
theorem State.Effect.of_no_dest {s : State} {i : Instr} {slots : List Slot} {data : Word} (hok : s.dueStatus i = .ok)
    (hdest : i.dest? = none) (hbecome : SlotsBecome i s.slots slots) (hdata : i.hasResult = false → data = 0#64) :
    s.Effect i slots { status := .ok, data := data } where
  become := hbecome
  refused h := absurd hok h
  begins _ _ hd := nomatch hdest.symm.trans hd
  status_eq := hok.symm
  data_eq h := hdata (h.resolve_left fun hne => hne rfl)

/-- A command that is due OK and begins a generator has no result. -/
theorem State.Effect.of_dest {s : State} {i : Instr} {slots : List Slot} {d : SlotIx} (hok : s.dueStatus i = .ok)
    (hdest : i.dest? = some d) (hd : d.toNat < s.slots.length) (hbecome : SlotsBecome i s.slots slots)
    (seed streamIndex : Word) :
    s.Effect i (slots.set d.toNat { gen := construct seed streamIndex, valid := true })
      { status := .ok, data := 0#64 } where
  become := hbecome.set_begun hdest seed streamIndex
  refused h := absurd hok h
  begins _ d' hd' := by
    obtain rfl : d = d' := Option.some.inj (hdest.symm.trans hd')
    exact ⟨_, List.getElem?_set_self (hbecome.length_eq ▸ hd)⟩
  status_eq := hok.symm
  data_eq _ := rfl

/-- RDSTATE that passes its checks may read its field (42_generator.md R66). -/
theorem readable_of_checked {s : State} {sel : SlotField} {g : SlotIx} {sl : Slot} (hslot : s.slots[g.toNat]? = some sl)
    (hsource : ∀ g', (Instr.rdstate sel g).source? = some g' → s.isValid g' = true) :
    sel = .valid ∨ sl.valid = true := by
  rw [← State.isValid_of_slot hslot]
  cases sel with
  | valid => exact .inl rfl
  | x | inc | ctr => exact .inr (hsource g rfl)

/-- Everything a command can do. -/
theorem exec_effect (i : Instr) (s : State) : ∃ slots r,
    exec i s = .next { s with slots := slots, pending := s.pending ++ [r] } ∧ s.Effect i slots r := by
  by_cases hok : s.dueStatus i = .ok
  case neg =>
    exact ⟨_, _, exec_refused hok, SlotsBecome.refl _ _, fun _ => rfl, fun h => absurd h hok, rfl, fun _ => rfl⟩
  obtain ⟨hrange, hsource⟩ := State.dueStatus_eq_ok_iff.mp hok
  cases i with
  | construct d =>
    have hd := hrange d List.mem_cons_self
    exact ⟨_, _, execConstruct_in_range hd, .of_dest hok rfl hd (SlotsBecome.refl _ _) _ _⟩
  | next g =>
    obtain ⟨sl, hslot, hvalid⟩ := State.isValid_iff.mp (hsource g rfl)
    exact ⟨_, _, execNext_valid hslot hvalid, .of_no_dest hok rfl (.set_advanced rfl hslot hvalid _) nofun⟩
  | split d g =>
    have hd := hrange d List.mem_cons_self
    obtain ⟨sl, hslot, hvalid⟩ := State.isValid_iff.mp (hsource g rfl)
    exact ⟨_, _, execSplit_valid hslot hvalid hd, .of_dest hok rfl hd (.set_advanced rfl hslot hvalid _) _ _⟩
  | skip g =>
    obtain ⟨sl, hslot, hvalid⟩ := State.isValid_iff.mp (hsource g rfl)
    exact ⟨_, _, execSkip_valid hslot hvalid, .of_no_dest hok rfl (.set_advanced rfl hslot hvalid _) fun _ => rfl⟩
  | rdstate sel g =>
    obtain ⟨sl, hslot⟩ := State.exists_slot (hrange g List.mem_cons_self)
    have hread := execRdstate_readable hslot (readable_of_checked hslot hsource)
    exact ⟨_, _, hread, .of_no_dest hok rfl (SlotsBecome.refl _ _) nofun⟩
  | mix | expand16 | expand32 => exact ⟨_, _, rfl, .of_no_dest hok rfl (SlotsBecome.refl _ _) nofun⟩

/-- What a state that a command has gone on to is. -/
theorem State.effect_of_exec {s t : State} {i : Instr} (h : exec i s = .next t) : ∃ slots r,
    t = { s with slots := slots, pending := s.pending ++ [r] } ∧ s.Effect i slots r := by
  obtain ⟨slots, r, hexec, heffect⟩ := exec_effect i s
  exact ⟨slots, r, Host.Outcome.next.inj (h.symm.trans hexec), heffect⟩

end Sys2Proof.Machine
end

section
/-! What one step can do, by what the host does. -/

namespace Sys2Proof.Machine

section Step

variable {s : State} {i : Instr} {w : CmdWord} {a b : Word} {rest : List HostEvent}

theorem step_idle (h : s.host = []) : step s = .next s := step_of_settled (State.fetch_idle h)

theorem step_command (h : s.host = .command w a b :: rest) (hw : decode w = .command i) :
    step s = exec i (s.present a b rest) :=
  step_of_run (State.fetch_command h hw)

theorem step_illegal {why : IllegalCause} (h : s.host = .command w a b :: rest) (hw : decode w = .illegal why) :
    step s = .next ((s.present a b rest).respond .illegal 0#64) :=
  step_of_settled (State.fetch_illegal h hw)

theorem step_takeResponse (h : s.host = .takeResponse :: rest) :
    step s = .next { s.takeResponse with host := rest } :=
  step_of_settled (State.fetch_takeResponse h)

theorem step_reset (h : s.host = .reset :: rest) : step s = .next { s.applyReset with host := rest } :=
  step_of_settled (State.fetch_reset h)

/-- What a presented word can do: of the slot file what the command it is does, and one response. -/
theorem step_word (h : s.host = .command w a b :: rest) : ∃ slots r,
    step s = .next { s with
      slots := slots, cmdA := a, cmdB := b, host := rest, pending := s.pending ++ [r] } ∧
    ((∃ i, decode w = .command i ∧ (s.present a b rest).Effect i slots r) ∨
      (∃ why, decode w = .illegal why) ∧ slots = s.slots ∧ r = { status := .illegal, data := 0#64 }) := by
  cases hw : decode w with
  | command i =>
    obtain ⟨slots, r, hexec, heffect⟩ := exec_effect i (s.present a b rest)
    exact ⟨slots, r, (step_command h hw).trans hexec, .inl ⟨i, rfl, heffect⟩⟩
  | illegal why => exact ⟨_, _, step_illegal h hw, .inr ⟨⟨why, rfl⟩, rfl, rfl⟩⟩

/-- What any step does to the slot file: nothing, what a command can do, or a reset. -/
theorem step_slots (s : State) : ∃ t, step s = .next t ∧
    (t.slots = s.slots ∨ (∃ i, SlotsBecome i s.slots t.slots) ∨
      (∃ rest, s.host = .reset :: rest) ∧ t.slots = s.slots.map fun _ => Slot.reset) := by
  cases hhost : s.host with
  | nil => exact ⟨s, step_idle hhost, .inl rfl⟩
  | cons e rest =>
    cases e with
    | command w a b =>
      obtain ⟨slots, r, hstep, ⟨i, -, heffect⟩ | ⟨-, hslots, -⟩⟩ := step_word hhost
      · exact ⟨_, hstep, .inr (.inl ⟨i, heffect.become⟩)⟩
      · exact ⟨_, hstep, .inl hslots⟩
    | takeResponse => exact ⟨_, step_takeResponse hhost, .inl s.takeResponse_slots⟩
    | reset => exact ⟨_, step_reset hhost, .inr (.inr ⟨⟨rest, rfl⟩, rfl⟩)⟩

end Step

theorem not_valid_of_mem_map_reset {slots : List Slot} {sl : Slot} (h : sl ∈ slots.map fun _ => Slot.reset) :
    sl.valid = false := by
  obtain ⟨_, -, rfl⟩ := List.mem_map.mp h
  rfl

theorem not_valid_of_mem_resetWith {n : Nat} {sl : Slot} (h : sl ∈ (State.resetWith n).slots) : sl.valid = false := by
  rw [List.eq_of_mem_replicate h]
  rfl

/-- Without a valid slot the invariant is about `NGEN` alone. -/
theorem State.inv_of_no_valid {s : State} (hlegal : Config.LegalNgen s.slots.length)
    (h : ∀ sl ∈ s.slots, sl.valid = false) : s.Inv :=
  ⟨hlegal, fun sl hmem hvalid => absurd ((h sl hmem).symm.trans hvalid) Bool.false_ne_true⟩

theorem resetWith_length (n : Nat) : (State.resetWith n).slots.length = n := List.length_replicate

end Sys2Proof.Machine

open Sys2Proof Sys2Proof.Machine

/-- Settles O56: a command keeps constructed generators, and a reset leaves no slot valid. -/
theorem everyStepKeepsTheInvariant : Obligations.EveryStepKeepsTheInvariant := by
  unfold Obligations.EveryStepKeepsTheInvariant
  rintro s t ⟨hlegal, hslots⟩ hstep
  obtain ⟨t', hstep', hcases⟩ := step_slots s
  obtain rfl : t = t' := Host.Outcome.next.inj (hstep.symm.trans hstep')
  rcases hcases with hsame | ⟨i, hbecome⟩ | ⟨-, hreset⟩
  · exact ⟨hsame.symm ▸ hlegal, hsame.symm ▸ hslots⟩
  · exact ⟨hbecome.length_eq.symm ▸ hlegal, hbecome.constructed hslots⟩
  · refine State.inv_of_no_valid ?_ fun sl hmem => not_valid_of_mem_map_reset (hreset ▸ hmem)
    rwa [hreset, List.length_map]

/-- Settles O57: a reset state has no valid slot. -/
theorem invariantHoldsAtReset : Obligations.InvariantHoldsAtReset := by
  unfold Obligations.InvariantHoldsAtReset
  have hreset (n : Nat) (h : Config.LegalNgen n) : (State.resetWith n).Inv :=
    State.inv_of_no_valid ((resetWith_length n).symm ▸ h) fun _ => not_valid_of_mem_resetWith
  exact ⟨hreset, hreset Params.ngen (by decide)⟩

/-- Settles O44: each thing the host can do has a next state, and none of them adds or removes a slot. -/
theorem machineNeverStops : Obligations.MachineNeverStops := by
  unfold Obligations.MachineNeverStops
  intro s
  obtain ⟨t, hstep, hsame | ⟨i, hbecome⟩ | ⟨-, hreset⟩⟩ := step_slots s
  · exact ⟨t, hstep, congrArg List.length hsame⟩
  · exact ⟨t, hstep, hbecome.length_eq⟩
  · exact ⟨t, hstep, by rw [hreset, List.length_map]⟩

/-- Settles O49: the slots of a reset state are copies of one that is not valid. -/
theorem resetStateHasNoGenerator : Obligations.ResetStateHasNoGenerator := by
  unfold Obligations.ResetStateHasNoGenerator
  exact ⟨fun n => ⟨resetWith_length n, fun _ => not_valid_of_mem_resetWith, rfl⟩, Params.ngen, by decide, rfl⟩

/-- Settles O50: a reset writes every slot, drops what is pending and leaves the rest. -/
theorem resetEventClearsEverySlot : Obligations.ResetEventClearsEverySlot := by
  unfold Obligations.ResetEventClearsEverySlot
  intro s rest hhost
  exact ⟨_, step_reset hhost, List.length_map _, fun _ => not_valid_of_mem_map_reset, rfl, rfl, rfl⟩

/-- Settles O45: with nothing presented a step settles the same state; taking a response is `State.takeResponse`. -/
theorem idleAndTakeKeepTheSlots : Obligations.IdleAndTakeKeepTheSlots := by
  unfold Obligations.IdleAndTakeKeepTheSlots
  refine ⟨fun s => step_idle, fun s rest r q hhost hpending => ?take, fun s rest hhost hpending => ?empty⟩
  case take => rw [step_takeResponse hhost, State.takeResponse_of_cons hpending]
  case empty => rw [step_takeResponse hhost, State.takeResponse_of_nil hpending]

/-- Settles O42: presenting a command sets the buses and leaves the rest of what the host does. -/
theorem stepRunsTheDecodedCommand : Obligations.StepRunsTheDecodedCommand := by
  unfold Obligations.StepRunsTheDecodedCommand
  exact fun s w a b rest i => step_command

end

section
/-! The frames of the commands (10_state.md R11 to R14), the life of a valid bit (10_state.md R16) and the responses
(30_encoding.md R39, 70_reset_and_hazards.md R90), read off what one command and one step can do. -/

namespace Sys2Proof.Machine

/-- RDSTATE changes nothing but the response queue. -/
theorem execRdstate_answers (sel : SlotField) (g : SlotIx) (s : State) :
    ∃ r, execRdstate sel g s = .next { s with pending := s.pending ++ [r] } := by
  unfold execRdstate
  split
  · exact ⟨_, rfl⟩
  · split <;> exact ⟨_, rfl⟩

/-- A slot that a command makes valid is its destination. -/
theorem SlotsBecome.dest_of_becomes_valid {i : Instr} {slots slots' : List Slot} {k : Nat} {sl sl' : Slot}
    (h : SlotsBecome i slots slots') (hk : slots[k]? = some sl) (hvalid : sl.valid = false)
    (hk' : slots'[k]? = some sl') (hvalid' : sl'.valid = true) : ∃ d, i.dest? = some d ∧ d.toNat = k := by
  obtain ⟨sl₀, hk₀, hbecomes⟩ := h.exists_before hk'
  obtain rfl : sl₀ = sl := Option.some.inj (hk₀.symm.trans hk)
  cases hbecomes with
  | kept => cases hvalid.symm.trans hvalid'
  | advanced _ _ hset => cases hvalid.symm.trans hset
  | begun hdest hd => exact ⟨_, hdest, hd⟩

theorem State.isValid_of_slots_eq {s t : State} (h : t.slots = s.slots) (ix : SlotIx) : t.isValid ix = s.isValid ix := by
  simp only [State.isValid, State.slot?_eq, h]

section ValidBit

variable {s t : State} {i : Instr} {r : Response} {ix : SlotIx}

theorem SlotsBecome.isValid (h : SlotsBecome i s.slots t.slots) (hvalid : s.isValid ix = true) :
    t.isValid ix = true := by
  obtain ⟨sl, hslot, hset⟩ := State.isValid_iff.mp hvalid
  exact State.isValid_iff.mpr (h.valid hslot hset)

/-- A valid bit that a command sets is that of its destination, and the command completes. -/
theorem State.Effect.sets_valid (h : s.Effect i t.slots r) (hclear : s.isValid ix = false) (hset : t.isValid ix = true) :
    i.dest? = some ix ∧ s.dueStatus i = .ok := by
  obtain ⟨sl', hslot', hvalid'⟩ := State.isValid_iff.mp hset
  obtain ⟨sl, hslot, -⟩ := h.become.exists_before hslot'
  constructor
  · obtain ⟨d, hdest, hd⟩ := h.become.dest_of_becomes_valid hslot ((State.isValid_of_slot hslot).symm.trans hclear)
      hslot' hvalid'
    rwa [← BitVec.eq_of_toNat_eq hd]
  · by_contra hrefused
    rw [State.isValid_of_slots_eq (h.refused hrefused), hclear] at hset
    cases hset

end ValidBit

theorem State.not_isValid_of_no_valid {s : State} (h : ∀ sl ∈ s.slots, sl.valid = false) (ix : SlotIx) :
    s.isValid ix = false := by
  rw [← Bool.not_eq_true]
  intro hvalid
  obtain ⟨sl, hslot, hset⟩ := State.isValid_iff.mp hvalid
  cases (h sl (List.mem_of_getElem? hslot)).symm.trans hset

/-- Where no slot is valid only the commands that need no generator are due OK. -/
theorem State.dueStatus_eq_ok_iff_of_no_valid {s : State} (h : ∀ sl ∈ s.slots, sl.valid = false) (i : Instr) :
    s.dueStatus i = .ok ↔ (∀ ix ∈ i.indices, ix.toNat < s.slots.length) ∧ i.source? = none := by
  rw [State.dueStatus_eq_ok_iff]
  simp [State.not_isValid_of_no_valid h, Option.eq_none_iff_forall_ne_some]

end Sys2Proof.Machine

open Sys2Proof Sys2Proof.Machine

/-- Settles O32: the pure functions answer at once; RDSTATE reads a slot or is refused. -/
theorem frameOfCommandsThatWriteNoSlot : Obligations.FrameOfCommandsThatWriteNoSlot := by
  unfold Obligations.FrameOfCommandsThatWriteNoSlot
  rintro i s (rfl | rfl | rfl | ⟨sel, g, rfl⟩)
  · exact ⟨_, rfl⟩
  · exact ⟨_, rfl⟩
  · exact ⟨_, rfl⟩
  · exact execRdstate_answers sel g s

/-- Settles O33: NEXT and SKIP have a source and no destination. -/
theorem frameOfNextAndSkip : Obligations.FrameOfNextAndSkip := by
  unfold Obligations.FrameOfNextAndSkip
  intro i g s t hi hexec
  obtain ⟨slots, r, rfl, heffect⟩ := State.effect_of_exec hexec
  have hsource : i.source? = some g := by rcases hi with rfl | rfl <;> rfl
  have hdest : i.dest? = none := by rcases hi with rfl | rfl <;> rfl
  refine ⟨heffect.become.length_eq, fun k hk => ?others, fun sl hslot => ?source, rfl, rfl, rfl, rfl, r, rfl⟩
  case others => exact heffect.become.slot_of_ne (by simpa [hsource] using hk.symm) (by simp [hdest])
  case source => exact heffect.become.slot_of_not_dest (by simp [hdest]) hslot

/-- Settles O34: CONSTRUCT has a destination alone, SPLIT a source besides. -/
theorem frameOfConstructAndSplit : Obligations.FrameOfConstructAndSplit := by
  unfold Obligations.FrameOfConstructAndSplit
  constructor
  · intro d s t hexec
    obtain ⟨slots, r, rfl, heffect⟩ := State.effect_of_exec hexec
    refine ⟨heffect.become.length_eq, fun k hk => ?_, rfl, rfl, rfl, rfl, r, rfl⟩
    exact heffect.become.slot_of_ne nofun (by simpa [Instr.dest?] using hk.symm)
  · intro d g s t hexec
    obtain ⟨slots, r, rfl, heffect⟩ := State.effect_of_exec hexec
    refine ⟨heffect.become.length_eq, fun k hkd hkg => ?others, fun sl hne hslot => ?parent, rfl, rfl, rfl, rfl, r, rfl⟩
    case others =>
      exact heffect.become.slot_of_ne (by simpa [Instr.source?] using hkg.symm) (by simpa [Instr.dest?] using hkd.symm)
    case parent =>
      exact heffect.become.slot_of_not_dest (by simpa [Instr.dest?] using BitVec.toNat_ne_iff_ne.mpr hne) hslot

/-- Settles O52: commands keep valid bits and set that of the destination when they complete; a reset clears all. -/
theorem validBitLifecycle : Obligations.ValidBitLifecycle := by
  unfold Obligations.ValidBitLifecycle
  refine ⟨fun i s ix => ?command, fun s ix hvalid hhost => ?step, fun s ix rest hhost => ?reset, fun s g hg => ?read⟩
  case command =>
    obtain ⟨slots, r, hexec, heffect⟩ := exec_effect i s
    refine ⟨_, hexec, heffect.become.isValid, fun hdest hok => ?_, heffect.sets_valid⟩
    obtain ⟨p, hslot⟩ := heffect.begins hok ix hdest
    exact State.isValid_iff.mpr ⟨_, hslot, rfl⟩
  case step =>
    obtain ⟨t, hstep, hsame | ⟨i, hbecome⟩ | ⟨⟨rest, hreset⟩, -⟩⟩ := step_slots s
    · exact ⟨t, hstep, (State.isValid_of_slots_eq hsame ix).trans hvalid⟩
    · exact ⟨t, hstep, hbecome.isValid hvalid⟩
    · exact absurd hreset (hhost rest)
  case reset =>
    exact ⟨_, step_reset hhost, State.not_isValid_of_no_valid (fun _ => not_valid_of_mem_map_reset) ix⟩
  case read =>
    obtain ⟨sl, hslot⟩ := State.exists_slot hg
    rw [State.isValid_of_slot hslot]
    exact ⟨_, execRdstate_readable hslot (.inl rfl), rfl⟩

/-- Settles O51: without a valid slot the due status is OK exactly for the commands with no source, on slots in range. -/
theorem onlyTheseAnswerOkAfterReset : Obligations.OnlyTheseAnswerOkAfterReset := by
  unfold Obligations.OnlyTheseAnswerOkAfterReset
  intro s i hnone
  obtain ⟨t, data, hexec, hpending⟩ := exec_answers_dueStatus i s
  refine ⟨t, _, hexec, hpending, ?_⟩
  rw [State.dueStatus_eq_ok_iff_of_no_valid hnone]
  cases i with
  | construct d => simp [Instr.indices, Instr.source?]
  | rdstate sel g => cases sel <;> simp [Instr.indices, Instr.source?]
  | next | split | skip | mix | expand16 | expand32 => simp [Instr.indices, Instr.source?]

/-- Settles O46: a presented word adds one response; taking one moves it from the pending to the taken. -/
theorem responsesInCommandOrder : Obligations.ResponsesInCommandOrder := by
  unfold Obligations.ResponsesInCommandOrder
  intro s e rest hhost hreset
  cases e with
  | command w a b =>
    obtain ⟨slots, r, hstep, -⟩ := step_word hhost
    exact ⟨_, hstep, rfl, nofun, fun _ => ⟨rfl, r, rfl⟩⟩
  | takeResponse => exact ⟨_, step_takeResponse hhost, rfl, fun _ => s.takeResponse_responses, nofun⟩
  | reset => exact absurd rfl hreset

/-- Settles O40: the data of a legal command's response is 0 without OK or without a result, and that of an illegal word's
is 0. -/
theorem responseFormat : Obligations.ResponseFormat := by
  unfold Obligations.ResponseFormat
  refine ⟨rfl, rfl, rfl, rfl, fun s w a b rest hhost => ?_⟩
  obtain ⟨slots, r, hstep, ⟨i, hw, heffect⟩ | ⟨-, -, rfl⟩⟩ := step_word hhost
  · refine ⟨_, r, hstep, rfl, fun h => heffect.data_eq (h.imp_right ?_)⟩
    rintro ⟨j, hj, hnoResult⟩
    obtain rfl : i = j := Decoded.command.inj (hw.symm.trans hj)
    exact hnoResult
  · exact ⟨_, _, hstep, rfl, fun _ => rfl⟩

end

section
/-! Two commands in a row (20_memory.md R25, 70_reset_and_hazards.md R91): a NEXT sees the slot as the command before it
left it. -/

namespace Sys2Proof.Machine

theorem step_encode {s : State} {i : Instr} {a b : Word} {rest : List HostEvent}
    (h : s.host = .command (encode i) a b :: rest) : step s = exec i (s.present a b rest) :=
  step_command h (decode_encode i)

/-- If a command leaves the valid generator `p` in slot `ix`, the NEXT on `ix` presented after it answers the output of
`p`. -/
theorem step_step_next {s t : State} {i : Instr} {ix : SlotIx} {a b a' b' : Word} {rest : List HostEvent}
    {r : Response} {p : Gen} (hhost : s.host = .command (encode i) a b :: .command (encode (.next ix)) a' b' :: rest)
    (hexec : exec i (s.present a b (.command (encode (.next ix)) a' b' :: rest)) = .next t)
    (hpending : t.pending = s.pending ++ [r]) (hhost' : t.host = .command (encode (.next ix)) a' b' :: rest)
    (hslot : t.slots[ix.toNat]? = some { gen := p, valid := true }) :
    ∃ t u, step s = .next t ∧ step t = .next u ∧ u.host = rest ∧
      u.pending = s.pending ++ [r, { status := .ok, data := nextOut p }] := by
  have hstep : step t = _ := (step_encode hhost').trans (execNext_valid (s := t.present a' b' rest) hslot rfl)
  refine ⟨t, _, (step_encode hhost).trans hexec, hstep, rfl, ?_⟩
  rw [State.present_pending, hpending, List.append_assoc, List.singleton_append]

end Sys2Proof.Machine

namespace Sys2Proof

/-- The slot in which a command begins a generator is one of those it uses. -/
theorem Instr.dest?_mem_indices {i : Instr} {d : SlotIx} (h : i.dest? = some d) : d ∈ i.indices := by
  cases i with
  | construct | split => cases h; exact List.mem_cons_self
  | next | skip | rdstate | mix | expand16 | expand32 => cases h

end Sys2Proof

open Sys2Proof Sys2Proof.Machine

/-- Settles O47: CONSTRUCT leaves its generator and NEXT the advanced one for the NEXT after it; a slot that a command does
not name is neither its source nor its destination. -/
theorem sequentialExecution : Obligations.SequentialExecution := by
  unfold Obligations.SequentialExecution
  refine ⟨fun s w a b rest hhost => ?oneResponse, fun s ix seed streamIndex a b rest hix hhost => ?construct,
    fun s ix sl a b c d rest hslot hvalid hhost => ?next, fun i s j hj => ?others⟩
  case oneResponse =>
    obtain ⟨slots, r, hstep, -⟩ := step_word hhost
    exact ⟨_, r, hstep, rfl, rfl⟩
  case construct =>
    exact step_step_next (p := construct seed streamIndex) hhost (execConstruct_in_range hix) rfl rfl
      (List.getElem?_set_self hix)
  case next =>
    exact step_step_next (p := nextGen sl.gen) hhost (execNext_valid hslot hvalid) rfl rfl
      (List.getElem?_set_self (State.lt_of_slot hslot))
  case others =>
    obtain ⟨slots, r, hexec, heffect⟩ := exec_effect i s
    exact ⟨_, hexec, heffect.become.slot_of_ne (fun g hg => hj g (Instr.source?_mem_indices hg))
      fun d hd => hj d (Instr.dest?_mem_indices hd)⟩

/-- Settles O48: SPLIT leaves the child and the parent, and SKIP the skipped generator, for the NEXT after it. -/
theorem noHazards : Obligations.NoHazards := by
  unfold Obligations.NoHazards
  refine ⟨fun s d g sl a b a' b' rest hslot hvalid hd hhost => ?child,
    fun s d g sl a b a' b' rest hslot hvalid hd hne hhost => ?parent,
    fun s g sl distance b a' b' rest hslot hvalid hhost => ?skip⟩
  case child =>
    obtain ⟨t, u, ht, hu, -, hpending⟩ := step_step_next hhost (execSplit_valid hslot hvalid hd) rfl rfl
      (List.getElem?_set_self (by rwa [List.length_set]))
    exact ⟨t, u, ht, hu, hpending⟩
  case parent =>
    have hparent {child : Slot} : ((s.slots.set g.toNat { gen := splitParent sl.gen, valid := true }).set d.toNat
        child)[g.toNat]? = some { gen := splitParent sl.gen, valid := true } :=
      (List.getElem?_set_ne (BitVec.toNat_ne_iff_ne.mpr hne)).trans (List.getElem?_set_self (State.lt_of_slot hslot))
    obtain ⟨t, u, ht, hu, -, hpending⟩ := step_step_next hhost (execSplit_valid hslot hvalid hd) rfl rfl hparent
    exact ⟨t, u, ht, hu, splitParent_eq_nextGen_nextGen sl.gen ▸ hpending⟩
  case skip =>
    obtain ⟨t, u, ht, hu, -, hpending⟩ := step_step_next hhost (execSkip_valid hslot hvalid) rfl rfl
      (List.getElem?_set_self (State.lt_of_slot hslot))
    exact ⟨t, u, ht, hu, hpending⟩

end

section
/-! The words of the commands (30_encoding.md sections 1 to 4, 6): a command has one word, and a word without a row is
illegal for one of two causes. -/

namespace Sys2Proof

open Sys2Proof.Machine

theorem decode_eq_command_iff {w : CmdWord} {i : Instr} : decode w = .command i ↔ w.toNat = (encode i).toNat :=
  ⟨fun h => by rw [encode_of_decode h], fun h => by rw [BitVec.eq_of_toNat_eq h, decode_encode]⟩

/-- The defined opcodes are those of the rows. -/
theorem mem_opcodes_iff {op : BitVec 8} :
    op ∈ [0x01#8, 0x02#8, 0x03#8, 0x04#8, 0x05#8, 0x08#8, 0x09#8, 0x0A#8] ↔ ∃ r, op = opField (rowMatch r) := by
  have hrows : [0x01#8, 0x02#8, 0x03#8, 0x04#8, 0x05#8, 0x08#8, 0x09#8, 0x0A#8] =
      allRows.map fun r => opField (rowMatch r) := by decide
  rw [hrows, List.mem_map]
  exact ⟨fun ⟨r, _, hr⟩ => ⟨r, hr.symm⟩, fun ⟨r, hr⟩ => ⟨r, mem_allRows r, hr.symm⟩⟩

/-- Which fields of a word that fits a row are zero. -/
theorem zero_fields_of_rowFits {w : CmdWord} {r : Row} (h : rowFits w r = true) :
    zField w = 0#6 ∧ (opField w = 0x05#8 ∨ selField w = 0#2) ∧
    (opField w = 0x01#8 ∨ opField w = 0x03#8 ∨ dField w = 0#8) ∧
    (opField w ∈ [0x02#8, 0x03#8, 0x04#8, 0x05#8] ∨ gField w = 0#8) := by
  cases r with
  | construct =>
    obtain ⟨hop, hz, hsel, hg⟩ := (rowFits_construct w).mp h
    exact ⟨hz, .inr hsel, .inl hop, .inr hg⟩
  | next =>
    obtain ⟨hop, hz, hsel, hd⟩ := (rowFits_next w).mp h
    exact ⟨hz, .inr hsel, .inr (.inr hd), .inl (by rw [hop]; decide)⟩
  | split =>
    obtain ⟨hop, hz, hsel⟩ := (rowFits_split w).mp h
    exact ⟨hz, .inr hsel, .inr (.inl hop), .inl (by rw [hop]; decide)⟩
  | skip =>
    obtain ⟨hop, hz, hsel, hd⟩ := (rowFits_skip w).mp h
    exact ⟨hz, .inr hsel, .inr (.inr hd), .inl (by rw [hop]; decide)⟩
  | rdstate =>
    obtain ⟨hop, hz, hd⟩ := (rowFits_rdstate w).mp h
    exact ⟨hz, .inl hop, .inr (.inr hd), .inl (by rw [hop]; decide)⟩
  | mix =>
    obtain ⟨-, hz, hsel, hd, hg⟩ := (rowFits_mix w).mp h
    exact ⟨hz, .inr hsel, .inr (.inr hd), .inr hg⟩
  | expand16 =>
    obtain ⟨-, hz, hsel, hd, hg⟩ := (rowFits_expand16 w).mp h
    exact ⟨hz, .inr hsel, .inr (.inr hd), .inr hg⟩
  | expand32 =>
    obtain ⟨-, hz, hsel, hd, hg⟩ := (rowFits_expand32 w).mp h
    exact ⟨hz, .inr hsel, .inr (.inr hd), .inr hg⟩

theorem decode_undefinedOpcode {w : CmdWord} (h : ∀ r, opField w ≠ opField (rowMatch r)) :
    decode w = .illegal .undefinedOpcode := by
  have hundefined : (allRows.any fun r => opField (rowMatch r) == opField w) = false :=
    List.any_eq_false.mpr fun r _ hr => h r (beq_iff_eq.mp hr).symm
  rw [decode_of_no_row fun r hr => h r (opField_of_rowFits hr), illegalCause, hundefined]
  rfl

theorem exists_illegal_iff {w : CmdWord} :
    (∃ why, decode w = .illegal why) ↔ ∀ r, w &&& rowMask r ≠ rowMatch r := by
  constructor
  · rintro ⟨why, hw⟩ r hr
    cases hw.symm.trans (decode_of_rowFits ((rowFits_iff w r).mpr hr))
  · exact fun h => ⟨_, decode_of_no_row fun r => mt (rowFits_iff w r).mp (h r)⟩

theorem decode_of_decodeTableWord {nbits w : Nat} {i : Instr} (h : decodeTableWord nbits w = some i) :
    decode (BitVec.ofNat 32 (w % 2 ^ nbits)) = .command i := by
  unfold decodeTableWord at h
  split at h
  · cases hw : decode (BitVec.ofNat 32 (w % 2 ^ nbits)) with
    | command j => simpa [hw] using h
    | illegal why => simp [hw] at h
  · cases h

end Sys2Proof

open Sys2Proof Sys2Proof.Machine

/-- Settles O22: a word decodes to a command exactly when it is the command's encoding, a number made of its fields. -/
theorem eachCommandHasOneWord : Obligations.EachCommandHasOneWord := by
  unfold Obligations.EachCommandHasOneWord
  intro w
  simp only [decode_eq_command_iff, encode, toNat_packCmd, selOfField]
  simp [Nat.mul_comm, Nat.add_assoc]

/-- Settles O23: a word with a defined opcode can fit the row of that opcode alone, which asks for zeros in the fields it
does not use; another word fits none. -/
theorem illegalWordsAreRefused : Obligations.IllegalWordsAreRefused := by
  unfold Obligations.IllegalWordsAreRefused
  refine ⟨fun w hop => ?undefined, fun w hop hbits => ?mustBeZero, fun w => exists_illegal_iff.symm,
    ⟨.undefinedOpcode, by decide⟩, fun s w a b rest why => step_illegal⟩
  case undefined => exact decode_undefinedOpcode fun r hr => hop (mem_opcodes_iff.mpr ⟨r, hr⟩)
  case mustBeZero =>
    obtain ⟨r, hr⟩ := mem_opcodes_iff.mp hop
    refine decode_mustBeZero_of_opField_eq hr fun hfits => ?_
    obtain ⟨hz, hsel, hd, hg⟩ := zero_fields_of_rowFits hfits
    tauto

/-- Settles O20: the decoder is evaluated on each word. -/
theorem sampleWordsDecode : Obligations.SampleWordsDecode := by
  unfold Obligations.SampleWordsDecode
  decide

/-- Settles O43: the word placed is the first thing the host does, and it is the word `decodeTableWord` decodes. -/
theorem placedWordRuns : Obligations.PlacedWordRuns := by
  unfold Obligations.PlacedWordRuns
  intro s w i htable
  exact step_command (s := s.withFetchWord 32 w) rfl (decode_of_decodeTableWord htable)

end

section
/-! Shifts and slices as numbers (00_scope.md R3, R6), and the two readings of the shift in construct
(93_implementation_defined.md U6): they have the same low half, and only the spec's reading lets the tweak into the high
half. -/

namespace Sys2Proof.Machine

theorem low32_xor (v w : Word) : low32 (v ^^^ w) = low32 v ^^^ low32 w := BitVec.extractLsb'_xor

/-- Under the 32-bit reading the tweak stays in the low half. -/
theorem incOfTweak_false_eq_append (tweak : Word) :
    incOfTweak false tweak = 0x5BE0CD19#32 ++ (0x137E2179#32 ^^^ shl (low32 tweak) 2) := by
  have hzext : zext64 (shl (low32 tweak) 2) = 0#32 ++ shl (low32 tweak) 2 := BitVec.setWidth_eq_append (by decide)
  calc incOfTweak false tweak
    _ = (0x5BE0CD19#32 ++ 0x137E2179#32) ^^^ (0#32 ++ shl (low32 tweak) 2) := by rw [← hzext]; rfl
    _ = _ := by rw [BitVec.xor_append]; rfl

theorem high32_incOfTweak_false (tweak : Word) : high32 (incOfTweak false tweak) = 0x5BE0CD19#32 := by
  rw [incOfTweak_false_eq_append]
  exact BitVec.extractLsb'_append_eq_left

theorem low32_incOfTweak_false (tweak : Word) :
    low32 (incOfTweak false tweak) = 0x137E2179#32 ^^^ shl (low32 tweak) 2 := by
  rw [incOfTweak_false_eq_append, low32_append]

theorem low32_incOfTweak_true (tweak : Word) :
    low32 (incOfTweak true tweak) = 0x137E2179#32 ^^^ shl (low32 tweak) 2 := by
  have hbits : low32 (tweakBits true tweak) = shl (low32 tweak) 2 := by
    apply BitVec.eq_of_toNat_eq
    have hmasked : (tweakBits true tweak).toNat = 4 * (tweak.toNat % 2 ^ 32) := toNat_masked_shiftLeft_two tweak
    simp only [low32, shl, BitVec.toNat_shiftLeft, BitVec.extractLsb'_toNat, Nat.shiftRight_zero, hmasked,
      Nat.shiftLeft_eq]
    omega
  rw [incOfTweak, low32_xor, hbits]
  rfl

theorem word_eq_iff {v w : Word} : v = w ↔ high32 v = high32 w ∧ low32 v = low32 w := by
  refine ⟨fun h => h ▸ ⟨rfl, rfl⟩, fun ⟨hhigh, hlow⟩ => ?_⟩
  rw [← append_low32 v, hhigh, hlow, append_low32]

end Sys2Proof.Machine

open Sys2Proof Sys2Proof.Machine

/-- Settles O3: the numbers of shifts, zero extensions and slices of bit vectors. -/
theorem shiftsAndSlicesAsNumbers : Obligations.ShiftsAndSlicesAsNumbers := by
  unfold Obligations.ShiftsAndSlicesAsNumbers
  refine ⟨fun n v k => ⟨?shr, ?shl⟩, fun n v hn => ?zext, fun v => ⟨?high, ?low, ?low16⟩⟩
  case shr => rw [shr, BitVec.toNat_ushiftRight, Nat.shiftRight_eq_div_pow]
  case shl => rw [shl, BitVec.toNat_shiftLeft, Nat.shiftLeft_eq]
  case zext => exact BitVec.toNat_setWidth_of_le hn
  case high =>
    rw [high32, BitVec.extractLsb'_toNat, Nat.shiftRight_eq_div_pow]
    omega
  case low => exact BitVec.extractLsb'_toNat 0 32 v
  case low16 => exact BitVec.extractLsb'_toNat 0 16 v

/-- Settles O19: the low halves agree, and the high halves exactly when the two bits that only the spec's reading keeps are
clear. -/
theorem shiftReadingsAgreeExactlyWhen : Obligations.ShiftReadingsAgreeExactlyWhen := by
  unfold Obligations.ShiftReadingsAgreeExactlyWhen
  intro tweak
  have hlow : low32 (incOfTweak false tweak) = low32 (incOfTweak true tweak) :=
    (low32_incOfTweak_false tweak).trans (low32_incOfTweak_true tweak).symm
  refine ⟨?agree, high32_incOfTweak_false tweak, hlow, ?x⟩
  case agree =>
    have hbits : ∀ b : BitVec 2, 0x5BE0CD19#32 ^^^ b.setWidth 32 = 0x5BE0CD19#32 ↔ b = 0b00#2 := by decide
    rw [word_eq_iff, high32_incOfTweak, high32_incOfTweak_false, hbits]
    exact and_iff_left hlow.symm
  case x =>
    rw [xOfInc, high32_incOfTweak_false]
    decide

end

section
/-! States that differ only in the words of slots that are not valid (10_state.md R19). A command is due the same status in
both; if it completes, the slots it reads are valid, so equal in both, and what it writes is equal in both. -/

namespace Sys2Proof.Machine

/-! ### Slot files that differ in those words -/

/-- Two slot files that differ at most in the words of slots that are not valid. -/
structure SlotsSameSeen (l m : List Slot) : Prop where
  length_eq : l.length = m.length
  sameSeen : ∀ (k : Nat) (a b : Slot), l[k]? = some a → m[k]? = some b → a.SameSeen b

/-- The state with another slot file. -/
def State.withSlots (s : State) (slots : List Slot) : State := { s with slots := slots }

/-- What `State.SameSeen` allows to differ is in the slot file. -/
theorem State.sameSeen_iff {s t : State} :
    s.SameSeen t ↔ ∃ m, t = s.withSlots m ∧ SlotsSameSeen s.slots m := by
  constructor
  · rintro ⟨hlength, hslots, hA, hB, hhost, hpending, htaken⟩
    refine ⟨t.slots, ?_, hlength, hslots⟩
    rw [State.withSlots, hA, hB, hhost, hpending, htaken]
  · rintro ⟨m, rfl, hlength, hslots⟩
    exact ⟨hlength, hslots, rfl, rfl, rfl, rfl, rfl⟩

theorem Slot.SameSeen.refl (sl : Slot) : sl.SameSeen sl := ⟨rfl, fun _ => rfl⟩

theorem Slot.SameSeen.valid_eq {a b : Slot} (h : a.SameSeen b) : a.valid = b.valid := by
  obtain ⟨hvalidEq, -⟩ := h
  exact hvalidEq

theorem Slot.SameSeen.eq_of_valid {a b : Slot} (h : a.SameSeen b) (hvalid : a.valid = true) : a = b := by
  obtain ⟨hvalidEq, hgen⟩ := h
  obtain ⟨gen, valid⟩ := a
  obtain ⟨gen', valid'⟩ := b
  obtain rfl : valid = valid' := hvalidEq
  obtain rfl : gen = gen' := hgen hvalid
  rfl

/-- A field that may be read holds the same in both. -/
theorem Slot.SameSeen.readField_eq {a b : Slot} (h : a.SameSeen b) {sel : SlotField}
    (hread : sel = .valid ∨ a.valid = true) : readField a sel = readField b sel := by
  rcases hread with rfl | hvalid
  · exact congrArg validWord h.valid_eq
  · rw [h.eq_of_valid hvalid]

section SlotsSameSeen

variable {l m : List Slot} {k : Nat} {a : Slot}

theorem SlotsSameSeen.refl (l : List Slot) : SlotsSameSeen l l :=
  ⟨rfl, fun _ a _ ha hb => Option.some.inj (ha.symm.trans hb) ▸ .refl a⟩

theorem SlotsSameSeen.exists_slot (h : SlotsSameSeen l m) (ha : l[k]? = some a) :
    ∃ b, m[k]? = some b ∧ a.SameSeen b := by
  obtain ⟨hlt, -⟩ := List.getElem?_eq_some_iff.mp ha
  have hb : m[k]? = some (m[k]'(h.length_eq ▸ hlt)) := List.getElem?_eq_getElem _
  exact ⟨_, hb, h.sameSeen k a _ ha hb⟩

theorem SlotsSameSeen.slot_of_valid (h : SlotsSameSeen l m) (ha : l[k]? = some a) (hvalid : a.valid = true) :
    m[k]? = some a := by
  obtain ⟨b, hb, hseen⟩ := h.exists_slot ha
  rw [hb, hseen.eq_of_valid hvalid]

/-- Writing a slot with the same content in both. -/
theorem SlotsSameSeen.set (h : SlotsSameSeen l m) (k : Nat) (sl : Slot) :
    SlotsSameSeen (l.set k sl) (m.set k sl) := by
  refine ⟨by rw [List.length_set, List.length_set, h.length_eq], fun j a b ha hb => ?_⟩
  rw [List.getElem?_set] at ha hb
  by_cases hkj : k = j
  · rw [if_pos hkj, Option.ite_none_right_eq_some, Option.some_inj] at ha hb
    obtain ⟨-, rfl⟩ := ha
    obtain ⟨-, rfl⟩ := hb
    exact .refl _
  · rw [if_neg hkj] at ha hb
    exact h.sameSeen j a b ha hb

theorem SlotsSameSeen.map_reset (h : SlotsSameSeen l m) :
    SlotsSameSeen (l.map fun _ => Slot.reset) (m.map fun _ => Slot.reset) := by
  rw [List.map_const', List.map_const', h.length_eq]
  exact .refl _

end SlotsSameSeen

/-! ### What the block does with them -/

section SameSeen

variable {s t : State} {m : List Slot}

theorem SlotsSameSeen.isValid_eq (h : SlotsSameSeen s.slots t.slots) (ix : SlotIx) : s.isValid ix = t.isValid ix := by
  cases hslot : s.slots[ix.toNat]? with
  | none =>
    have hslot' : t.slots[ix.toNat]? = none := by
      rwa [List.getElem?_eq_none_iff, ← h.length_eq, ← List.getElem?_eq_none_iff]
    simp only [State.isValid, State.slot?_eq, hslot, hslot']
  | some a =>
    obtain ⟨b, hb, hseen⟩ := h.exists_slot hslot
    rw [State.isValid_of_slot hslot, State.isValid_of_slot hb, hseen.valid_eq]

theorem SlotsSameSeen.dueStatus_eq (h : SlotsSameSeen s.slots t.slots) (i : Instr) :
    s.dueStatus i = t.dueStatus i := by
  simp only [State.dueStatus, h.length_eq, h.isValid_eq]

/-- A command gives the same response in both, and leaves two slot files that again differ only in what is not seen. -/
theorem SlotsSameSeen.exec (h : SlotsSameSeen s.slots m) (i : Instr) : ∃ l' m' r,
    Machine.exec i s = .next { s with slots := l', pending := s.pending ++ [r] } ∧
    Machine.exec i (s.withSlots m) = .next { s with slots := m', pending := s.pending ++ [r] } ∧
    SlotsSameSeen l' m' := by
  have hdue : (s.withSlots m).dueStatus i = s.dueStatus i :=
    (SlotsSameSeen.dueStatus_eq (t := s.withSlots m) h i).symm
  by_cases hok : s.dueStatus i = .ok
  case neg =>
    have hrefused : Machine.exec i (s.withSlots m) = _ := exec_refused (hdue.trans_ne hok)
    rw [hdue] at hrefused
    exact ⟨_, _, _, exec_refused hok, hrefused, h⟩
  obtain ⟨hrange, hsource⟩ := State.dueStatus_eq_ok_iff.mp hok
  cases i with
  | construct d =>
    have hd := hrange d List.mem_cons_self
    exact ⟨_, _, _, execConstruct_in_range hd, execConstruct_in_range (h.length_eq ▸ hd), h.set _ _⟩
  | next g =>
    obtain ⟨sl, hslot, hvalid⟩ := State.isValid_iff.mp (hsource g rfl)
    exact ⟨_, _, _, execNext_valid hslot hvalid, execNext_valid (h.slot_of_valid hslot hvalid) hvalid, h.set _ _⟩
  | split d g =>
    have hd := hrange d List.mem_cons_self
    obtain ⟨sl, hslot, hvalid⟩ := State.isValid_iff.mp (hsource g rfl)
    exact ⟨_, _, _, execSplit_valid hslot hvalid hd,
      execSplit_valid (h.slot_of_valid hslot hvalid) hvalid (h.length_eq ▸ hd), (h.set _ _).set _ _⟩
  | skip g =>
    obtain ⟨sl, hslot, hvalid⟩ := State.isValid_iff.mp (hsource g rfl)
    exact ⟨_, _, _, execSkip_valid hslot hvalid, execSkip_valid (h.slot_of_valid hslot hvalid) hvalid, h.set _ _⟩
  | rdstate sel g =>
    obtain ⟨a, ha⟩ := State.exists_slot (hrange g List.mem_cons_self)
    obtain ⟨b, hb, hseen⟩ := h.exists_slot ha
    have hreadable := readable_of_checked ha hsource
    have hread : execRdstate sel g (s.withSlots m) = _ :=
      execRdstate_readable hb (hreadable.imp_right hseen.valid_eq.symm.trans)
    rw [← hseen.readField_eq hreadable] at hread
    exact ⟨_, _, _, execRdstate_readable ha hreadable, hread, h⟩
  | mix | expand16 | expand32 => exact ⟨_, _, _, rfl, rfl, h⟩

theorem State.withSlots_takeResponse (s : State) (m : List Slot) :
    (s.withSlots m).takeResponse = s.takeResponse.withSlots m := by
  cases hpending : s.pending with
  | nil =>
    have hpending' : (s.withSlots m).pending = [] := hpending
    rw [State.takeResponse_of_nil hpending, State.takeResponse_of_nil hpending']
  | cons r rest =>
    have hpending' : (s.withSlots m).pending = r :: rest := hpending
    rw [State.takeResponse_of_cons hpending, State.takeResponse_of_cons hpending']
    rfl

/-- So does a step, whatever the host does. -/
theorem SlotsSameSeen.step (h : SlotsSameSeen s.slots m) : ∃ s' m',
    Machine.step s = .next s' ∧ Machine.step (s.withSlots m) = .next (s'.withSlots m') ∧
    SlotsSameSeen s'.slots m' := by
  cases hhost : s.host with
  | nil => exact ⟨s, m, step_idle hhost, step_idle (s := s.withSlots m) hhost, h⟩
  | cons e rest =>
    have hhost' : (s.withSlots m).host = e :: rest := hhost
    cases e with
    | command w a b =>
      cases hw : decode w with
      | command i =>
        obtain ⟨l', m', r, hs, ht, h'⟩ := SlotsSameSeen.exec (s := s.present a b rest) h i
        exact ⟨_, m', (step_command hhost hw).trans hs, (step_command hhost' hw).trans ht, h'⟩
      | illegal why => exact ⟨_, m, step_illegal hhost hw, step_illegal hhost' hw, h⟩
    | takeResponse =>
      refine ⟨_, m, step_takeResponse hhost, ?_, s.takeResponse_slots.symm ▸ h⟩
      rw [step_takeResponse hhost', State.withSlots_takeResponse]
      rfl
    | reset => exact ⟨_, _, step_reset hhost, step_reset hhost', h.map_reset⟩

end SameSeen

end Sys2Proof.Machine

open Sys2Proof Sys2Proof.Machine

/-- Settles O55: each thing the host can do keeps two slot files such that they differ only in what is not seen, and does
the same to the rest of the state. -/
theorem unwrittenWordsAreNeverObserved : Obligations.UnwrittenWordsAreNeverObserved := by
  unfold Obligations.UnwrittenWordsAreNeverObserved
  intro s t hseen
  obtain ⟨m, rfl, hslots⟩ := State.sameSeen_iff.mp hseen
  obtain ⟨s', m', hs, ht, hslots'⟩ := hslots.step
  exact ⟨s', _, hs, ht, State.sameSeen_iff.mpr ⟨m', rfl, hslots'⟩⟩

end
